-- ==== Sys2Proof/Word.lean ====
section
/-! DEFINITION. The widths of the hardware (spec 00_scope.md R8): bytes, 16-bit words and addresses, register numbers. -/

namespace Sys2Proof

/-- `XLEN` and the memory cell: 8 bits (R8, R21, R50). -/
abbrev Byte := BitVec 8

/-- An instruction word: `ILEN`, 16 bits (R8, R70). -/
abbrev Word := BitVec 16

/-- The value of `pc`, `I` and a stack entry: 16 bits (R8, R25, R30, R31). -/
abbrev Addr := BitVec 16

/-- A register number 0x0..0xF, which is also a key number (R21, R35, R75). -/
abbrev Reg := Fin 16

end Sys2Proof
end

