-- ==== Sys2Proof/Syntax.lean ====
section
/-! DEFINITION. The instructions: one constructor per row of spec/opcode_table.json (30_encoding.md R83, R84). -/

namespace Sys2Proof

/-- The decoded kinds of 30_encoding.md R84, in the order of R83. `x` and `y` are register numbers,
`kk`, `nnn` and `n` the immediates of R72 and R74. -/
inductive Instr where
  /-- 00E0 `CLS` (41_display.md R120) -/
  | cls
  /-- 00EE `RET` (42_control_flow.md R140) -/
  | ret
  /-- 1nnn `JP nnn` (R141) -/
  | jp (nnn : BitVec 12)
  /-- 2nnn `CALL nnn` (R142) -/
  | call (nnn : BitVec 12)
  /-- 3xkk `SE Vx, kk` (R143) -/
  | seK (x : Reg) (kk : Byte)
  /-- 4xkk `SNE Vx, kk` (R144) -/
  | sneK (x : Reg) (kk : Byte)
  /-- 5xy0 `SE Vx, Vy` (R145) -/
  | seR (x y : Reg)
  /-- 6xkk `LD Vx, kk` (43_alu.md R161) -/
  | ldK (x : Reg) (kk : Byte)
  /-- 7xkk `ADD Vx, kk` (R162) -/
  | addK (x : Reg) (kk : Byte)
  /-- 8xy0 `LD Vx, Vy` (R163) -/
  | ldR (x y : Reg)
  /-- 8xy1 `OR Vx, Vy` (R164) -/
  | orR (x y : Reg)
  /-- 8xy2 `AND Vx, Vy` (R165) -/
  | andR (x y : Reg)
  /-- 8xy3 `XOR Vx, Vy` (R166) -/
  | xorR (x y : Reg)
  /-- 8xy4 `ADD Vx, Vy` (R167) -/
  | addR (x y : Reg)
  /-- 8xy5 `SUB Vx, Vy` (R168) -/
  | sub (x y : Reg)
  /-- 8xy6 `SHR Vx, Vy` (R169) -/
  | shr (x y : Reg)
  /-- 8xy7 `SUBN Vx, Vy` (R170) -/
  | subn (x y : Reg)
  /-- 8xyE `SHL Vx, Vy` (R171) -/
  | shl (x y : Reg)
  /-- 9xy0 `SNE Vx, Vy` (42_control_flow.md R146) -/
  | sneR (x y : Reg)
  /-- Annn `LD I, nnn` (44_index_memory.md R190) -/
  | ldI (nnn : BitVec 12)
  /-- Bnnn `JP V0, nnn` (42_control_flow.md R147) -/
  | jpV0 (nnn : BitVec 12)
  /-- Cxkk `RND Vx, kk` (43_alu.md R173) -/
  | rnd (x : Reg) (kk : Byte)
  /-- Dxyn `DRW Vx, Vy, n` (41_display.md R121) -/
  | drw (x y : Reg) (n : BitVec 4)
  /-- Ex9E `SKP Vx` (45_timers_keypad.md R210) -/
  | skp (x : Reg)
  /-- ExA1 `SKNP Vx` (R211) -/
  | sknp (x : Reg)
  /-- Fx07 `LD Vx, DT` (R213) -/
  | ldVDt (x : Reg)
  /-- Fx0A `LD Vx, K` (R214) -/
  | ldVK (x : Reg)
  /-- Fx15 `LD DT, Vx` (R215) -/
  | ldDtV (x : Reg)
  /-- Fx18 `LD ST, Vx` (R216) -/
  | ldStV (x : Reg)
  /-- Fx1E `ADD I, Vx` (44_index_memory.md R191) -/
  | addI (x : Reg)
  /-- Fx29 `LD F, Vx` (R192) -/
  | ldF (x : Reg)
  /-- Fx33 `LD B, Vx` (R193) -/
  | ldB (x : Reg)
  /-- Fx55 `LD [I], Vx` (R194) -/
  | stRegs (x : Reg)
  /-- Fx65 `LD Vx, [I]` (R195) -/
  | ldRegs (x : Reg)
  /-- The no-op of family 0x0 with secondary key `n` (30_encoding.md R82; log 8) -/
  | nop0 (n : BitVec 4)
  /-- The no-op of family 0x8 with secondary key `n` (R82) -/
  | nop8 (n : BitVec 4)
  /-- The no-op of family 0xE with secondary key `n` (R82) -/
  | nopE (n : BitVec 4)
  /-- The no-op of family 0xF with secondary key `kk` (R82) -/
  | nopF (kk : Byte)
  deriving DecidableEq, Repr

end Sys2Proof
end

