-- ==== Sys2Proof/WellFormed.lean ====
section
/-! DEFINITION. Which terms of Instr stand for a word of the hardware (30_encoding.md R75, R78 to R82). -/

namespace Sys2Proof

/-- The secondary keys of family 0x0 that name an instruction (30_encoding.md R78). -/
def keys0 : List (BitVec 4) := [0x0, 0xE]

/-- The secondary keys of family 0x8 that name an instruction (R79). -/
def keys8 : List (BitVec 4) := [0x0, 0x1, 0x2, 0x3, 0x4, 0x5, 0x6, 0x7, 0xE]

/-- The secondary keys of family 0xE that name an instruction (R80). -/
def keysE : List (BitVec 4) := [0xE, 0x1]

/-- The secondary keys of family 0xF that name an instruction (R81). -/
def keysF : List Byte := [0x07, 0x0A, 0x15, 0x18, 0x1E, 0x29, 0x33, 0x55, 0x65]

/-- A no-op stands for a word only when its secondary key is one that no instruction of its family
has (R82). Every operand of every instruction is legal (R75), and its type bounds it. -/
def Instr.wf : Instr → Bool
  | .nop0 n => !keys0.contains n
  | .nop8 n => !keys8.contains n
  | .nopE n => !keysE.contains n
  | .nopF kk => !keysF.contains kk
  | .cls | .ret | .jp _ | .call _ | .seK _ _ | .sneK _ _ | .seR _ _ | .ldK _ _ | .addK _ _
  | .ldR _ _ | .orR _ _ | .andR _ _ | .xorR _ _ | .addR _ _ | .sub _ _ | .shr _ _ | .subn _ _
  | .shl _ _ | .sneR _ _ | .ldI _ | .jpV0 _ | .rnd _ _ | .drw _ _ _ | .skp _ | .sknp _
  | .ldVDt _ | .ldVK _ | .ldDtV _ | .ldStV _ | .addI _ | .ldF _ | .ldB _ | .stRegs _
  | .ldRegs _ => true

end Sys2Proof
end

