-- ==== Sys2Proof/Decode.lean ====
section
/-! DEFINITION. The decoder (30_encoding.md R72, R76 to R84), total on all words, and the encoder. -/

namespace Sys2Proof

/-! ## The fields of a word (30_encoding.md R72) -/

def fieldF (w : Word) : BitVec 4 := w.extractLsb' 12 4
def fieldX (w : Word) : Reg := (w.extractLsb' 8 4).toFin
def fieldY (w : Word) : Reg := (w.extractLsb' 4 4).toFin
def fieldN (w : Word) : BitVec 4 := w.extractLsb' 0 4
def fieldKK (w : Word) : Byte := w.extractLsb' 0 8
def fieldNNN (w : Word) : BitVec 12 := w.extractLsb' 0 12

/-! ## The four multi-op families -/

/-- Family 0x0, on the low 4 bits alone (30_encoding.md R78). -/
def decodeFamily0 (n : BitVec 4) : Instr :=
  if n = 0x0 then .cls else if n = 0xE then .ret else .nop0 n

/-- Family 0x8 (R79). -/
def decodeFamily8 (x y : Reg) (n : BitVec 4) : Instr :=
  if n = 0x0 then .ldR x y else if n = 0x1 then .orR x y else if n = 0x2 then .andR x y
  else if n = 0x3 then .xorR x y else if n = 0x4 then .addR x y else if n = 0x5 then .sub x y
  else if n = 0x6 then .shr x y else if n = 0x7 then .subn x y else if n = 0xE then .shl x y
  else .nop8 n

/-- Family 0xE, on the low 4 bits alone (R80). -/
def decodeFamilyE (x : Reg) (n : BitVec 4) : Instr :=
  if n = 0xE then .skp x else if n = 0x1 then .sknp x else .nopE n

/-- Family 0xF, on the low 8 bits (R81). -/
def decodeFamilyF (x : Reg) (kk : Byte) : Instr :=
  if kk = 0x07 then .ldVDt x else if kk = 0x0A then .ldVK x else if kk = 0x15 then .ldDtV x
  else if kk = 0x18 then .ldStV x else if kk = 0x1E then .addI x else if kk = 0x29 then .ldF x
  else if kk = 0x33 then .ldB x else if kk = 0x55 then .stRegs x else if kk = 0x65 then .ldRegs x
  else .nopF kk

/-- `Decode(w)` of 30_encoding.md R84. No word is illegal (R86). UNVERIFIED (log 5): the numeric
family and key values, which the spec takes from the canonical CHIP-8 table. -/
def decode (w : Word) : Instr :=
  match (fieldF w).toNat with
  | 0x0 => decodeFamily0 (fieldN w)
  | 0x1 => .jp (fieldNNN w)
  | 0x2 => .call (fieldNNN w)
  | 0x3 => .seK (fieldX w) (fieldKK w)
  | 0x4 => .sneK (fieldX w) (fieldKK w)
  | 0x5 => .seR (fieldX w) (fieldY w)
  | 0x6 => .ldK (fieldX w) (fieldKK w)
  | 0x7 => .addK (fieldX w) (fieldKK w)
  | 0x8 => decodeFamily8 (fieldX w) (fieldY w) (fieldN w)
  | 0x9 => .sneR (fieldX w) (fieldY w)
  | 0xA => .ldI (fieldNNN w)
  | 0xB => .jpV0 (fieldNNN w)
  | 0xC => .rnd (fieldX w) (fieldKK w)
  | 0xD => .drw (fieldX w) (fieldY w) (fieldN w)
  | 0xE => decodeFamilyE (fieldX w) (fieldN w)
  | _ => decodeFamilyF (fieldX w) (fieldKK w)

/-! ## Bytes -/

/-- Two bytes make a word, the first the high one (20_memory.md R54). -/
def wordOfBytes (hi lo : Byte) : Word := hi ++ lo

/-- The byte at the lower address (R54). -/
def highByte (w : Word) : Byte := w.extractLsb' 8 8

/-- The byte at the higher address (R54). -/
def lowByte (w : Word) : Byte := w.extractLsb' 0 8

/-- Why a list of bytes holds no instruction: every instruction is exactly two bytes (30_encoding.md
R70), and no pair of bytes is refused (R86). -/
inductive DecodeError where
  /-- fewer than two bytes are left -/
  | truncated
  deriving DecidableEq, Repr

/-- What decoding a list of bytes gives: an instruction and the bytes after it, or a rejection by name. -/
inductive Decoded where
  | instr (i : Instr) (rest : List Byte)
  | rejected (e : DecodeError)
  deriving DecidableEq, Repr

/-- The decoder on any list of bytes. -/
def decodeBytes : List Byte → Decoded
  | hi :: lo :: rest => .instr (decode (wordOfBytes hi lo)) rest
  | [_] => .rejected .truncated
  | [] => .rejected .truncated

/-! ## The encoder -/

/-- A register number as a field of four bits. -/
def regBits (r : Reg) : BitVec 4 := BitVec.ofFin r

/-- The word of an instruction, from the match column and the fields of 30_encoding.md R83.
DESIGN CHOICE (log 12), safe: bits the hardware ignores are those of the canonical word
(00E0, 00EE, 5xy0, 9xy0, Ex9E, ExA1), and 0 in a no-op. -/
def encode : Instr → Word
  | .cls => 0x00E0
  | .ret => 0x00EE
  | .jp nnn => 0x1#4 ++ nnn
  | .call nnn => 0x2#4 ++ nnn
  | .seK x kk => 0x3#4 ++ regBits x ++ kk
  | .sneK x kk => 0x4#4 ++ regBits x ++ kk
  | .seR x y => 0x5#4 ++ regBits x ++ regBits y ++ 0x0#4
  | .ldK x kk => 0x6#4 ++ regBits x ++ kk
  | .addK x kk => 0x7#4 ++ regBits x ++ kk
  | .ldR x y => 0x8#4 ++ regBits x ++ regBits y ++ 0x0#4
  | .orR x y => 0x8#4 ++ regBits x ++ regBits y ++ 0x1#4
  | .andR x y => 0x8#4 ++ regBits x ++ regBits y ++ 0x2#4
  | .xorR x y => 0x8#4 ++ regBits x ++ regBits y ++ 0x3#4
  | .addR x y => 0x8#4 ++ regBits x ++ regBits y ++ 0x4#4
  | .sub x y => 0x8#4 ++ regBits x ++ regBits y ++ 0x5#4
  | .shr x y => 0x8#4 ++ regBits x ++ regBits y ++ 0x6#4
  | .subn x y => 0x8#4 ++ regBits x ++ regBits y ++ 0x7#4
  | .shl x y => 0x8#4 ++ regBits x ++ regBits y ++ 0xE#4
  | .sneR x y => 0x9#4 ++ regBits x ++ regBits y ++ 0x0#4
  | .ldI nnn => 0xA#4 ++ nnn
  | .jpV0 nnn => 0xB#4 ++ nnn
  | .rnd x kk => 0xC#4 ++ regBits x ++ kk
  | .drw x y n => 0xD#4 ++ regBits x ++ regBits y ++ n
  | .skp x => 0xE#4 ++ regBits x ++ 0x9E#8
  | .sknp x => 0xE#4 ++ regBits x ++ 0xA1#8
  | .ldVDt x => 0xF#4 ++ regBits x ++ 0x07#8
  | .ldVK x => 0xF#4 ++ regBits x ++ 0x0A#8
  | .ldDtV x => 0xF#4 ++ regBits x ++ 0x15#8
  | .ldStV x => 0xF#4 ++ regBits x ++ 0x18#8
  | .addI x => 0xF#4 ++ regBits x ++ 0x1E#8
  | .ldF x => 0xF#4 ++ regBits x ++ 0x29#8
  | .ldB x => 0xF#4 ++ regBits x ++ 0x33#8
  | .stRegs x => 0xF#4 ++ regBits x ++ 0x55#8
  | .ldRegs x => 0xF#4 ++ regBits x ++ 0x65#8
  | .nop0 n => 0x0#4 ++ 0x00#8 ++ n
  | .nop8 n => 0x8#4 ++ 0x00#8 ++ n
  | .nopE n => 0xE#4 ++ 0x00#8 ++ n
  | .nopF kk => 0xF#4 ++ 0x0#4 ++ kk

/-- The two bytes of an instruction as memory holds them (20_memory.md R54). -/
def encodeBytes (i : Instr) : List Byte := [highByte (encode i), lowByte (encode i)]

/-! ## The opcode map as a table (30_encoding.md R83) -/

/-- One row of the opcode map: a word `w` is of the row when `(w AND mask) = pattern`. -/
structure OpcodeRow where
  pattern : Word
  mask : Word
  deriving DecidableEq, Repr

/-- `(w AND mask) = match` (R83). -/
def OpcodeRow.hits (row : OpcodeRow) (w : Word) : Bool := w &&& row.mask == row.pattern

/-- The row of R83 an instruction is listed in; the no-ops have none there (their default rows in
opcode_table.json apply "only when no row above matches"). -/
def Instr.row : Instr → Option OpcodeRow
  | .cls => some ⟨0x0000, 0xF00F⟩
  | .ret => some ⟨0x000E, 0xF00F⟩
  | .jp _ => some ⟨0x1000, 0xF000⟩
  | .call _ => some ⟨0x2000, 0xF000⟩
  | .seK _ _ => some ⟨0x3000, 0xF000⟩
  | .sneK _ _ => some ⟨0x4000, 0xF000⟩
  | .seR _ _ => some ⟨0x5000, 0xF000⟩
  | .ldK _ _ => some ⟨0x6000, 0xF000⟩
  | .addK _ _ => some ⟨0x7000, 0xF000⟩
  | .ldR _ _ => some ⟨0x8000, 0xF00F⟩
  | .orR _ _ => some ⟨0x8001, 0xF00F⟩
  | .andR _ _ => some ⟨0x8002, 0xF00F⟩
  | .xorR _ _ => some ⟨0x8003, 0xF00F⟩
  | .addR _ _ => some ⟨0x8004, 0xF00F⟩
  | .sub _ _ => some ⟨0x8005, 0xF00F⟩
  | .shr _ _ => some ⟨0x8006, 0xF00F⟩
  | .subn _ _ => some ⟨0x8007, 0xF00F⟩
  | .shl _ _ => some ⟨0x800E, 0xF00F⟩
  | .sneR _ _ => some ⟨0x9000, 0xF000⟩
  | .ldI _ => some ⟨0xA000, 0xF000⟩
  | .jpV0 _ => some ⟨0xB000, 0xF000⟩
  | .rnd _ _ => some ⟨0xC000, 0xF000⟩
  | .drw _ _ _ => some ⟨0xD000, 0xF000⟩
  | .skp _ => some ⟨0xE00E, 0xF00F⟩
  | .sknp _ => some ⟨0xE001, 0xF00F⟩
  | .ldVDt _ => some ⟨0xF007, 0xF0FF⟩
  | .ldVK _ => some ⟨0xF00A, 0xF0FF⟩
  | .ldDtV _ => some ⟨0xF015, 0xF0FF⟩
  | .ldStV _ => some ⟨0xF018, 0xF0FF⟩
  | .addI _ => some ⟨0xF01E, 0xF0FF⟩
  | .ldF _ => some ⟨0xF029, 0xF0FF⟩
  | .ldB _ => some ⟨0xF033, 0xF0FF⟩
  | .stRegs _ => some ⟨0xF055, 0xF0FF⟩
  | .ldRegs _ => some ⟨0xF065, 0xF0FF⟩
  | .nop0 _ | .nop8 _ | .nopE _ | .nopF _ => none

/-- The 34 rows of R83, in its order. -/
def opcodeMap : List OpcodeRow :=
  [⟨0x0000, 0xF00F⟩, ⟨0x000E, 0xF00F⟩, ⟨0x1000, 0xF000⟩, ⟨0x2000, 0xF000⟩, ⟨0x3000, 0xF000⟩,
   ⟨0x4000, 0xF000⟩, ⟨0x5000, 0xF000⟩, ⟨0x6000, 0xF000⟩, ⟨0x7000, 0xF000⟩] ++
  [⟨0x8000, 0xF00F⟩, ⟨0x8001, 0xF00F⟩, ⟨0x8002, 0xF00F⟩, ⟨0x8003, 0xF00F⟩, ⟨0x8004, 0xF00F⟩,
   ⟨0x8005, 0xF00F⟩, ⟨0x8006, 0xF00F⟩, ⟨0x8007, 0xF00F⟩, ⟨0x800E, 0xF00F⟩] ++
  [⟨0x9000, 0xF000⟩, ⟨0xA000, 0xF000⟩, ⟨0xB000, 0xF000⟩, ⟨0xC000, 0xF000⟩, ⟨0xD000, 0xF000⟩,
   ⟨0xE00E, 0xF00F⟩, ⟨0xE001, 0xF00F⟩] ++
  [⟨0xF007, 0xF0FF⟩, ⟨0xF00A, 0xF0FF⟩, ⟨0xF015, 0xF0FF⟩, ⟨0xF018, 0xF0FF⟩, ⟨0xF01E, 0xF0FF⟩,
   ⟨0xF029, 0xF0FF⟩, ⟨0xF033, 0xF0FF⟩, ⟨0xF055, 0xF0FF⟩, ⟨0xF065, 0xF0FF⟩]

/-- The bits of a word its format uses (30_encoding.md R73): formats `Z`, `XY` and `XE` ignore bits.
A no-op uses its family and its secondary key (R82). -/
def Instr.usedBits : Instr → Word
  | .cls | .ret => 0xF00F
  | .seR _ _ | .sneR _ _ => 0xFFF0
  | .skp _ | .sknp _ => 0xFF0F
  | .nop0 _ | .nop8 _ | .nopE _ => 0xF00F
  | .nopF _ => 0xF0FF
  | .jp _ | .call _ | .seK _ _ | .sneK _ _ | .ldK _ _ | .addK _ _ | .ldR _ _ | .orR _ _
  | .andR _ _ | .xorR _ _ | .addR _ _ | .sub _ _ | .shr _ _ | .subn _ _ | .shl _ _ | .ldI _
  | .jpV0 _ | .rnd _ _ | .drw _ _ _ | .ldVDt _ | .ldVK _ | .ldDtV _ | .ldStV _ | .addI _
  | .ldF _ | .ldB _ | .stRegs _ | .ldRegs _ => 0xFFFF

/-! ## The opcode table's numbering -/

/-- The instruction the decoder reads from a row's bits `w`, numbered as opcode_table.json numbers
them: one 16-bit word, bit 0 its least significant bit. The word is laid out big-endian (20_memory.md
R54) and given to the decoder. DESIGN CHOICE (log 18), safe: bits above `nbits` are 0, and no
instruction is longer than 16 bits (30_encoding.md R70), so a longer row gives none. -/
def decodeTableWord (nbits w : Nat) : Option Instr :=
  if nbits ≤ 16 then
    let word : Word := BitVec.ofNat 16 (w % 2 ^ nbits)
    match decodeBytes [highByte word, lowByte word] with
    | .instr i _ => some i
    | .rejected _ => none
  else none

end Sys2Proof
end

