-- ==== Sys2Proof/Config.lean ====
section
/-! DEFINITION. What an implementation fixes (spec 00_scope.md R8) and the free value of the random draw (43_alu.md R173). -/

namespace Sys2Proof

/-- The two parameters that "a model takes as arguments" (00_scope.md R8). They stand in State
so that every statement about every state covers both timer modes and every font (log 1). -/
structure Config where
  /-- `TIMER_DECOUPLED`: true when the host, not `Step()`, runs the tick (60_exceptions.md R237). -/
  timerDecoupled : Bool
  /-- `FONT_DATA`: the 80 bytes at 0x050..0x09F after reset (10_state.md R41). -/
  fontData : Vector Byte 80
  deriving DecidableEq, Repr

/-- DESIGN CHOICE (log 2), safe. The byte that draw number `n` of `rand_byte` gives: a free value
under no law (43_alu.md R173), so nothing can be proved of it but that it is a byte. -/
opaque Config.randByte : Nat → Byte

end Sys2Proof
end

