-- ==== Sys2Proof/Machine/Font.lean ====
section
/-! DEFINITION. The default of `FONT_DATA` (10_state.md R41) and the default parameters of the block (00_scope.md R8). -/

namespace Sys2Proof.Machine

/-- UNVERIFIED (log 4), unsafe. The 80 bytes of 10_state.md R41: digit `d` is bytes 5d to 5d + 4. The
spec supplies them from general knowledge of CHIP-8 as a parameter's default. -/
def defaultFont : Vector Byte 80 :=
  (#v[0xF0, 0x90, 0x90, 0x90, 0xF0,   0x20, 0x60, 0x20, 0x20, 0x70,
     0xF0, 0x10, 0xF0, 0x80, 0xF0,   0xF0, 0x10, 0xF0, 0x10, 0xF0] : Vector Byte 20) ++
  (#v[0x90, 0x90, 0xF0, 0x10, 0x10,   0xF0, 0x80, 0xF0, 0x10, 0xF0,
     0xF0, 0x80, 0xF0, 0x90, 0xF0,   0xF0, 0x10, 0x20, 0x40, 0x40] : Vector Byte 20) ++
  (#v[0xF0, 0x90, 0xF0, 0x90, 0xF0,   0xF0, 0x90, 0xF0, 0x10, 0xF0,
     0xF0, 0x90, 0xF0, 0x90, 0x90,   0xE0, 0x90, 0xE0, 0x90, 0xE0] : Vector Byte 20) ++
  (#v[0xF0, 0x80, 0x80, 0x80, 0xF0,   0xE0, 0x90, 0x90, 0x90, 0xE0,
     0xF0, 0x80, 0xF0, 0x80, 0xF0,   0xF0, 0x80, 0xF0, 0x80, 0x80] : Vector Byte 20)

/-- The values this hardware takes: `TIMER_DECOUPLED` false, `FONT_DATA` its default (R8). -/
def defaultConfig : Config := ⟨false, defaultFont⟩

/-- `ENTRY`: the program's entry address and the reset value of `pc` (R8, 10_state.md R29). -/
def entry : Nat := 0x200

/-- `FONT_BASE` (R8). -/
def fontBase : Nat := 0x050

/-- `MAX_IMAGE`: the longest program image, 0x200..0xFFF (R8, 20_memory.md R62). -/
def maxImage : Nat := 3584

end Sys2Proof.Machine
end

