-- ==== Sys2Proof/Machine/State.lean ====
section
/-! DEFINITION. The Machine State (10_state.md R20), the reasons a step or a host action can stop, and reset. -/

namespace Sys2Proof.Machine

/-- Memory: the bytes that differ from the reset contents, by address, addresses strictly rising
(log 7). `Memory.wf` in Machine/Ops.lean is this form. -/
abbrev Memory := List Host.Cell

/-- The Machine State: the items of 10_state.md R20, and last the model's own `config` and `draws`. -/
structure State where
  /-- `V[0..15]` (R21) -/
  v : Vector Byte 16
  /-- `pc` (R25) -/
  pc : Addr
  /-- `I` (R30) -/
  I : Addr
  /-- `S[0..15]` (R31) -/
  stack : Vector Addr 16
  /-- `SP`, 0..16 (R31; log 17) -/
  sp : Fin 17
  /-- `DT` (R33) -/
  dt : Byte
  /-- `ST` (R34) -/
  st : Byte
  /-- `M[0..4095]` (R37) -/
  mem : Memory
  /-- `K[0..15]`, true when pressed (R35) -/
  keys : Vector Bool 16
  /-- `FB[c][r]`: 64 columns of 32 cells (R36) -/
  fb : Vector (Vector Bool 32) 64
  /-- `FAULT`, 2 bits (R38; log 17) -/
  fault : BitVec 2
  /-- `FAULT_PC` (R38) -/
  faultPc : Addr
  /-- the parameters of 00_scope.md R8, fixed for the machine (log 1) -/
  config : Config
  /-- how many draws of `rand_byte` were taken (log 2) -/
  draws : Nat
  deriving DecidableEq, Repr

/-- Reasons a step stops with a fault: none (log 10). The hardware's two faults are states the
machine goes on from, halted (60_exceptions.md R232, R233), so the model has nothing to put here. -/
inductive Fault where
  deriving DecidableEq, Repr

/-- Reasons something is refused. -/
inductive Refusal where
  /-- An instruction that has no meaning in this model, by its mnemonic. Raised by a refused arm of
  `exec`; no arm is refused. Safe. -/
  | notModelled (mnemonic : String)
  /-- Raised by the host action `load` alone, for an image longer than 3584 bytes: the refusal of
  20_memory.md R62. No byte is written. Exact. -/
  | imageTooLong
  /-- Raised by the host action `timer_tick` alone, when the timers are coupled: "the host has no
  `timer_tick` action" then (60_exceptions.md R237; log 14). Nothing changes. Safe. -/
  | noTimerTick
  deriving DecidableEq, Repr

/-- What one instruction or host action answers. -/
abbrev Result := Host.Outcome State Fault Refusal

/-- The two exception causes of 60_exceptions.md R231. -/
inductive StackFault where
  | overflow
  | underflow
  deriving DecidableEq, Repr

/-- The state right after creation or reset with the parameters `c` and `draws` draws taken:
10_state.md R42, 70_reset_and_hazards.md R260. Memory lists nothing, so it reads as the font and
zeros (R37). The zeros are the spec's decision D11 (log 3). -/
def State.resetWith (c : Config) (draws : Nat) : State where
  v := Vector.replicate 16 0
  pc := 0x200
  I := 0
  stack := Vector.replicate 16 0
  sp := 0
  dt := 0
  st := 0
  mem := []
  keys := Vector.replicate 16 false
  fb := Vector.replicate 64 (Vector.replicate 32 false)
  fault := 0
  faultPc := 0
  config := c
  draws := draws

/-- The machine right after reset, with the default parameters. DESIGN CHOICE (log 2): no draw was
taken yet. -/
def State.reset : State := State.resetWith defaultConfig 0

end Sys2Proof.Machine
end

