-- ==== Sys2Proof/Machine/Ops.lean ====
section
/-! DEFINITION. The named operations over registers, memory, stack, screen and keypad; raising a fault; fetch; tick. -/

namespace Sys2Proof.Machine

/-! ## Memory (20_memory.md) -/

/-- What an unlisted address reads as: the reset contents, `FONT_DATA` at 0x050..0x09F and 0x00
elsewhere (10_state.md R37; log 7). -/
def Memory.background (font : Vector Byte 80) (a : Nat) : Byte :=
  if h : 0x050 ≤ a ∧ a < 0x0A0 then font[a - 0x050] else 0x00

/-- The byte listed for an address. -/
def Memory.lookup : Memory → Nat → Option Byte
  | [], _ => none
  | (a', b) :: m, a => if a' = a then some b else Memory.lookup m a

/-- One byte of memory, address in 0..4095. -/
def Memory.read (font : Vector Byte 80) (m : Memory) (a : Nat) : Byte :=
  (m.lookup a).getD (Memory.background font a)

/-- The memory with nothing listed for an address. -/
def Memory.erase (m : Memory) (a : Nat) : Memory := m.filter fun c => c.1 != a

/-- List a byte at its place in the rising order. -/
def Memory.insert : Memory → Nat → Byte → Memory
  | [], a, b => [(a, b)]
  | c :: m, a, b => if a < c.1 then (a, b) :: c :: m else c :: Memory.insert m a b

/-- Write one byte, address in 0..4095, keeping the canonical form: writing what an unlisted address
reads as removes the entry. -/
def Memory.write (font : Vector Byte 80) (m : Memory) (a : Nat) (b : Byte) : Memory :=
  if b = Memory.background font a then m.erase a else (m.erase a).insert a b

/-- The canonical form: addresses strictly rising and inside 0..4095, no entry equal to what an
unlisted address reads as. -/
def Memory.wf (font : Vector Byte 80) (m : Memory) : Bool :=
  decide (m.Pairwise fun c d => c.1 < d.1) &&
    m.all fun c => decide (c.1 < 4096) && c.2 != Memory.background font c.1

/-- `MemRead(addr, 1)`: any address, reduced mod 4096 (00_scope.md R12, 20_memory.md R56). -/
def State.readByte (s : State) (a : Nat) : Byte := s.mem.read s.config.fontData (a % 4096)

/-- `MemWrite(addr, 1, v)` (00_scope.md R12, 20_memory.md R56). -/
def State.writeByte (s : State) (a : Nat) (b : Byte) : State :=
  { s with mem := s.mem.write s.config.fontData (a % 4096) b }

/-! ## Registers (10_state.md) -/

/-- `V[r]` (R21). -/
def State.reg (s : State) (r : Reg) : Byte := s.v[r]

/-- `V[r] <- b` (R21). -/
def State.setReg (s : State) (r : Reg) (b : Byte) : State := { s with v := s.v.set r b }

/-- `pc <- a` (00_scope.md R11). -/
def State.setPc (s : State) (a : Addr) : State := { s with pc := a }

/-- `I <- a` (R30). -/
def State.setI (s : State) (a : Addr) : State := { s with I := a }

/-- `DT <- b` (R33). -/
def State.setDt (s : State) (b : Byte) : State := { s with dt := b }

/-- `ST <- b` (R34). -/
def State.setSt (s : State) (b : Byte) : State := { s with st := b }

/-! ## The call stack (10_state.md R31) -/

/-- `S[k]`. -/
def State.stackEntry (s : State) (k : Reg) : Addr := s.stack[k]

/-- `S[SP] <- a; SP <- SP + 1`, for `SP < 16`; at `SP = 16` the stack is full and stays as it is
(`CALL` faults there and does not push). -/
def State.push (s : State) (a : Addr) : State :=
  if h : s.sp.val < 16 then
    { s with stack := s.stack.set s.sp.val a, sp := ⟨s.sp.val + 1, by omega⟩ }
  else s

/-- `SP <- SP - 1; pc <- S[SP]`, for `SP > 0`; at `SP = 0` the stack is empty and the state stays as
it is (`RET` faults there and does not pop). The entry popped is not cleared (R32). -/
def State.popToPc (s : State) : State :=
  if h : 0 < s.sp.val then
    { s with sp := ⟨s.sp.val - 1, by omega⟩, pc := s.stack[s.sp.val - 1] }
  else s

/-! ## The screen (10_state.md R36) -/

/-- `FB[c][r]`. -/
def State.pixel (s : State) (c : Fin 64) (r : Fin 32) : Bool := s.fb[c][r]

/-- `FB[c][r] <- b`. -/
def State.setPixel (s : State) (c : Fin 64) (r : Fin 32) (b : Bool) : State :=
  { s with fb := s.fb.set c (s.fb[c].set r b) }

/-- Every cell off (41_display.md R120). -/
def State.clearScreen (s : State) : State :=
  { s with fb := Vector.replicate 64 (Vector.replicate 32 false) }

/-! ## The keypad (10_state.md R35) -/

/-- `K[k]`. -/
def State.key (s : State) (k : Reg) : Bool := s.keys[k]

/-- The lowest pressed key, scanning 0..15 in ascending order (45_timers_keypad.md R214). -/
def State.lowestKey (s : State) : Option Reg := (List.finRange 16).find? fun k => s.key k

/-! ## The random draw (43_alu.md R173) -/

/-- The byte the next draw gives: a free value (log 2). -/
def State.nextDraw (s : State) : Byte := Config.randByte s.draws

/-- The draw is consumed, so the next one is another (43_alu.md R173). -/
def State.takeDraw (s : State) : State := { s with draws := s.draws + 1 }

/-! ## Fetch (30_encoding.md R71) -/

/-- The word at `pc`: two one-byte reads, big-endian, each address reduced mod 4096. -/
def State.fetchWord (s : State) : Word :=
  wordOfBytes (s.readByte s.pc.toNat) (s.readByte (s.pc.toNat + 1))

/-- `pc <- (pc + 2) mod 2^16`, before execution. -/
def State.advancePc (s : State) : State := s.setPc (s.pc + 2)

/-- The fetch address `a` of the instruction that is executing: `pc` holds `a + 2` then (10_state.md
R25). DEDUCED (log 9), safe. -/
def State.fetchAddr (s : State) : Addr := s.pc - 2

/-! ## Faults (60_exceptions.md R231, R232) -/

/-- The `FAULT` code of a cause (R231). -/
def StackFault.code : StackFault → BitVec 2
  | .overflow => 1
  | .underflow => 2

/-- `raise E(a)` with `a` the fetch address: `pc <- a`, `FAULT <- code(E)`, `FAULT_PC <- a`, and
nothing else (R232). The only fault entry there is; no instruction returns from it (R234). -/
def State.raise (s : State) (e : StackFault) : State :=
  { s with pc := s.fetchAddr, fault := e.code, faultPc := s.fetchAddr }

/-- `FAULT != NONE` (00_scope.md R18, 10_state.md R38). -/
def State.halted (s : State) : Bool := s.fault != 0

/-! ## Timers (60_exceptions.md R236) -/

/-- One timer's tick: down to 0 and never below. -/
def tickDown (t : Byte) : Byte := if t ≠ 0 then t - 1 else t

/-- `Tick()`: each timer on its own (R236). -/
def State.tick (s : State) : State := { s with dt := tickDown s.dt, st := tickDown s.st }

/-- What `Step()` does after execution: no tick in a faulting step (R232) nor in decoupled mode
(R237), one tick otherwise (40_cycle.md R100, R103). -/
def State.endStep (s : State) : State :=
  if s.halted || s.config.timerDecoupled then s else s.tick

end Sys2Proof.Machine
end

