-- ==== Sys2Proof/Machine/Operands.lean ====
section
/-! DEFINITION. The operand forms: immediates, effective addresses, key and glyph indexes, digits, the skip. -/

namespace Sys2Proof.Machine

/-- `zext_16(nnn)` (30_encoding.md R74). -/
def zextAddr (nnn : BitVec 12) : Addr := nnn.setWidth 16

/-- A byte as a 16-bit addend (43_alu.md R174). -/
def zextByte (b : Byte) : Addr := b.setWidth 16

/-- The effective address `I + k`, before the reduction mod 4096 of every access (44_index_memory.md R196). -/
def State.effAddr (s : State) (k : Nat) : Nat := s.I.toNat + k

/-- The key a register value names: its low nibble (45_timers_keypad.md R212). -/
def keyIndex (b : Byte) : Reg := ⟨b.toNat % 16, Nat.mod_lt _ (by decide)⟩

/-- A key or register number as a byte. -/
def byteOfReg (r : Reg) : Byte := BitVec.ofNat 8 r.val

/-- The address of the glyph for a value, no masking (44_index_memory.md R192). -/
def glyphAddr (b : Byte) : Addr := BitVec.ofNat 16 (fontBase + 5 * b.toNat)

/-- The hundreds digit, 0..2 (44_index_memory.md R193). -/
def hundreds (d : Byte) : Byte := BitVec.ofNat 8 (d.toNat / 100)

/-- The tens digit, 0..9 (R193). -/
def tens (d : Byte) : Byte := BitVec.ofNat 8 (d.toNat / 10 % 10)

/-- The ones digit, 0..9 (R193). -/
def ones (d : Byte) : Byte := BitVec.ofNat 8 (d.toNat % 10)

/-- Register number `k` of the range `V0..Vx`, `k <= 15` (30_encoding.md R75). -/
def regAt (k : Nat) : Reg := ⟨k % 16, Nat.mod_lt _ (by decide)⟩

/-- One additional advance of `pc` by 2 when the condition holds (42_control_flow.md R148). -/
def State.skipIf (s : State) (cond : Bool) : State := if cond then s.setPc (s.pc + 2) else s

/-- Screen column of sprite column `c` at `vx` (41_display.md R122). -/
def spriteColumn (vx : Byte) (c : Nat) : Fin 64 := ⟨(vx.toNat + c) % 64, Nat.mod_lt _ (by decide)⟩

/-- Screen row of sprite row `r` at `vy` (41_display.md R122). -/
def spriteRow (vy : Byte) (r : Nat) : Fin 32 := ⟨(vy.toNat + r) % 32, Nat.mod_lt _ (by decide)⟩

end Sys2Proof.Machine
end

