-- ==== Sys2Proof/Machine/Flags.lean ====
section
/-! DEFINITION. The flag computations: the values that instructions write to VF (10_state.md R22, R23; 43_alu.md). -/

namespace Sys2Proof.Machine

/-- VF, the flag register (10_state.md R22). -/
def VF : Reg := 15

/-- A flag is 0x00 or 0x01 (10_state.md R23). -/
def flagByte (b : Bool) : Byte := if b then 0x01 else 0x00

/-- `ADD Vx,Vy`: the 8-bit sum overflows (43_alu.md R167). -/
def carryFlag (a b : Byte) : Byte := flagByte (decide (a.toNat + b.toNat > 255))

/-- `SUB`: strictly greater, so 0 when equal (43_alu.md R168). -/
def greaterFlag (a b : Byte) : Byte := flagByte (decide (a.toNat > b.toNat))

/-- `SUBN`: less or equal, so 1 when equal (43_alu.md R170). -/
def notGreaterFlag (a b : Byte) : Byte := flagByte (decide (a.toNat ≤ b.toNat))

/-- `SHR`: bit 0, the bit shifted out (43_alu.md R169). -/
def lowBitFlag (b : Byte) : Byte := flagByte (b.getLsbD 0)

/-- `SHL`: bit 7, the bit shifted out (43_alu.md R171). -/
def highBitFlag (b : Byte) : Byte := flagByte (b.getLsbD 7)

/-- The flag is written first and the result last, so that with `x = 0xF` the result stands
(43_alu.md R160, R172). Both come from operands latched before. -/
def State.writeFlagThenReg (s : State) (x : Reg) (flag result : Byte) : State :=
  (s.setReg VF flag).setReg x result

end Sys2Proof.Machine
end

