-- ==== Sys2Proof/Machine/Alu.lean ====
section
/-! DEFINITION. The register and ALU instructions (43_alu.md). -/

namespace Sys2Proof.Machine

/-- `LD Vx, kk` (43_alu.md R161). -/
def execLdK (x : Reg) (kk : Byte) (s : State) : Result := .next (s.setReg x kk)

/-- `ADD Vx, kk`: mod 256, no flag (R162). -/
def execAddK (x : Reg) (kk : Byte) (s : State) : Result := .next (s.setReg x (s.reg x + kk))

/-- `LD Vx, Vy` (R163). -/
def execLdR (x y : Reg) (s : State) : Result := .next (s.setReg x (s.reg y))

/-- `OR Vx, Vy`: VF unchanged unless it is the destination (R164). -/
def execOr (x y : Reg) (s : State) : Result := .next (s.setReg x (s.reg x ||| s.reg y))

/-- `AND Vx, Vy` (R165). -/
def execAnd (x y : Reg) (s : State) : Result := .next (s.setReg x (s.reg x &&& s.reg y))

/-- `XOR Vx, Vy` (R166). -/
def execXor (x y : Reg) (s : State) : Result := .next (s.setReg x (s.reg x ^^^ s.reg y))

/-- `ADD Vx, Vy` (R167). -/
def execAddR (x y : Reg) (s : State) : Result :=
  let a := s.reg x
  let b := s.reg y
  .next (s.writeFlagThenReg x (carryFlag a b) (a + b))

/-- `SUB Vx, Vy`: Vx - Vy (R168). -/
def execSub (x y : Reg) (s : State) : Result :=
  let a := s.reg x
  let b := s.reg y
  .next (s.writeFlagThenReg x (greaterFlag a b) (a - b))

/-- `SHR Vx, Vy`: the operand is Vy (R169). -/
def execShr (x y : Reg) (s : State) : Result :=
  let b := s.reg y
  .next (s.writeFlagThenReg x (lowBitFlag b) (b >>> 1))

/-- `SUBN Vx, Vy`: Vy - Vx (R170). -/
def execSubn (x y : Reg) (s : State) : Result :=
  let a := s.reg x
  let b := s.reg y
  .next (s.writeFlagThenReg x (notGreaterFlag a b) (b - a))

/-- `SHL Vx, Vy`: the operand is Vy (R171). -/
def execShl (x y : Reg) (s : State) : Result :=
  let b := s.reg y
  .next (s.writeFlagThenReg x (highBitFlag b) (b <<< 1))

/-- `RND Vx, kk`: a fresh draw, masked (R173; log 2). -/
def execRnd (x : Reg) (kk : Byte) (s : State) : Result :=
  .next (s.takeDraw.setReg x (s.nextDraw &&& kk))

end Sys2Proof.Machine
end

