-- ==== Sys2Proof/Machine/ControlFlow.lean ====
section
/-! DEFINITION. The control-transfer instructions (42_control_flow.md). In every meaning `pc` already holds the fetch address + 2. -/

namespace Sys2Proof.Machine

/-- `RET`: StackUnderflow on an empty stack, else pop into `pc` (42_control_flow.md R140). -/
def execRet (s : State) : Result :=
  if s.sp = 0 then .next (s.raise .underflow) else .next s.popToPc

/-- `JP nnn` (R141). -/
def execJp (nnn : BitVec 12) (s : State) : Result := .next (s.setPc (zextAddr nnn))

/-- `CALL nnn`: StackOverflow on a full stack, else push the advanced `pc` and jump (R142). -/
def execCall (nnn : BitVec 12) (s : State) : Result :=
  if s.sp = 16 then .next (s.raise .overflow)
  else .next ((s.push s.pc).setPc (zextAddr nnn))

/-- `SE Vx, kk` (R143). -/
def execSeK (x : Reg) (kk : Byte) (s : State) : Result := .next (s.skipIf (s.reg x == kk))

/-- `SNE Vx, kk` (R144). -/
def execSneK (x : Reg) (kk : Byte) (s : State) : Result := .next (s.skipIf (s.reg x != kk))

/-- `SE Vx, Vy` (R145). -/
def execSeR (x y : Reg) (s : State) : Result := .next (s.skipIf (s.reg x == s.reg y))

/-- `SNE Vx, Vy` (R146). -/
def execSneR (x y : Reg) (s : State) : Result := .next (s.skipIf (s.reg x != s.reg y))

/-- `JP V0, nnn`: the sum is not reduced to 12 bits (R147). -/
def execJpV0 (nnn : BitVec 12) (s : State) : Result :=
  .next (s.setPc (zextAddr nnn + zextByte (s.reg 0)))

end Sys2Proof.Machine
end

