-- ==== Sys2Proof/Machine/Display.lean ====
section
/-! DEFINITION. The display instructions (41_display.md). -/

namespace Sys2Proof.Machine

/-- XOR one cell with 1; VF becomes 0x01 if the cell was on (41_display.md R121, R123). -/
def State.flipPixel (s : State) (c : Fin 64) (r : Fin 32) : State :=
  if s.pixel c r then (s.setReg VF 0x01).setPixel c r false else s.setPixel c r true

/-- Columns 0 .. count-1 of sprite row `r`, whose byte is `b`, left to right; bit 7 is column 0.
UNVERIFIED (log 6), unsafe: that bit order (R122, the spec's decision D14). -/
def State.drawColumns (vx vy : Byte) (r : Nat) (b : Byte) (s : State) : Nat → State
  | 0 => s
  | c + 1 =>
    let s' := State.drawColumns vx vy r b s c
    if b.getLsbD (7 - c) then s'.flipPixel (spriteColumn vx c) (spriteRow vy r) else s'

/-- Rows 0 .. count-1 of the sprite at `I`, top to bottom (R121, R126). -/
def State.drawRows (vx vy : Byte) (s : State) : Nat → State
  | 0 => s
  | r + 1 =>
    let s' := State.drawRows vx vy s r
    State.drawColumns vx vy r (s'.readByte (s'.effAddr r)) s' 8

/-- `CLS` (R120). -/
def execCls (s : State) : Result := .next s.clearScreen

/-- `DRW Vx, Vy, n`: the coordinates are latched, then VF is cleared, then the rows are drawn
(R121, R124); with `n = 0` nothing is drawn (R125). -/
def execDrw (x y : Reg) (n : BitVec 4) (s : State) : Result :=
  let vx := s.reg x
  let vy := s.reg y
  .next (State.drawRows vx vy (s.setReg VF 0x00) n.toNat)

end Sys2Proof.Machine
end

