-- ==== Sys2Proof/Machine/IndexMemory.lean ====
section
/-! DEFINITION. The index-register and memory instructions (44_index_memory.md). -/

namespace Sys2Proof.Machine

/-- Store `V0 .. V(count-1)` at `I`, ascending (44_index_memory.md R194). -/
def State.storeRegs (s : State) : Nat → State
  | 0 => s
  | k + 1 => (s.storeRegs k).writeByte (s.effAddr k) (s.reg (regAt k))

/-- Load `V0 .. V(count-1)` from `I`, ascending (R195). -/
def State.loadRegs (s : State) : Nat → State
  | 0 => s
  | k + 1 => (s.loadRegs k).setReg (regAt k) (s.readByte (s.effAddr k))

/-- `LD I, nnn` (R190). -/
def execLdI (nnn : BitVec 12) (s : State) : Result := .next (s.setI (zextAddr nnn))

/-- `ADD I, Vx`: mod 2^16, no flag (R191). -/
def execAddI (x : Reg) (s : State) : Result := .next (s.setI (s.I + zextByte (s.reg x)))

/-- `LD F, Vx` (R192). -/
def execLdF (x : Reg) (s : State) : Result := .next (s.setI (glyphAddr (s.reg x)))

/-- `LD B, Vx`: the digits at `I`, `I+1`, `I+2`; `I` unchanged (R193). -/
def execLdB (x : Reg) (s : State) : Result :=
  let d := s.reg x
  .next (((s.writeByte (s.effAddr 0) (hundreds d)).writeByte (s.effAddr 1) (tens d)).writeByte
    (s.effAddr 2) (ones d))

/-- `LD [I], Vx`: the `x + 1` registers V0..Vx; `I` unchanged (R194). -/
def execStRegs (x : Reg) (s : State) : Result := .next (s.storeRegs (x.val + 1))

/-- `LD Vx, [I]`: the `x + 1` registers V0..Vx; `I` unchanged (R195). -/
def execLdRegs (x : Reg) (s : State) : Result := .next (s.loadRegs (x.val + 1))

end Sys2Proof.Machine
end

