-- ==== Sys2Proof/Machine/NoOp.lean ====
section
/-! DEFINITION. The no-op of the four multi-op families (30_encoding.md R82). -/

namespace Sys2Proof.Machine

/-- An unmatched key of family 0x0: no state changes (30_encoding.md R82). -/
def execNop0 (_n : BitVec 4) (s : State) : Result := .next s

/-- An unmatched key of family 0x8 (R82). -/
def execNop8 (_n : BitVec 4) (s : State) : Result := .next s

/-- An unmatched key of family 0xE (R82). -/
def execNopE (_n : BitVec 4) (s : State) : Result := .next s

/-- An unmatched key of family 0xF (R82). -/
def execNopF (_kk : Byte) (s : State) : Result := .next s

end Sys2Proof.Machine
end

