-- ==== Sys2Proof/Machine/TimersKeypad.lean ====
section
/-! DEFINITION. The keypad and timer instructions (45_timers_keypad.md). -/

namespace Sys2Proof.Machine

/-- `SKP Vx` (45_timers_keypad.md R210, R212). -/
def execSkp (x : Reg) (s : State) : Result := .next (s.skipIf (s.key (keyIndex (s.reg x))))

/-- `SKNP Vx` (R211, R212). -/
def execSknp (x : Reg) (s : State) : Result := .next (s.skipIf (!s.key (keyIndex (s.reg x))))

/-- `LD Vx, DT`: the value before this step's tick (R213). -/
def execLdVDt (x : Reg) (s : State) : Result := .next (s.setReg x s.dt)

/-- `LD Vx, K`: the lowest pressed key, or `pc` back to the fetch address (R214). -/
def execLdVK (x : Reg) (s : State) : Result :=
  match s.lowestKey with
  | some k => .next (s.setReg x (byteOfReg k))
  | none => .next (s.setPc (s.pc - 2))

/-- `LD DT, Vx` (R215). -/
def execLdDtV (x : Reg) (s : State) : Result := .next (s.setDt (s.reg x))

/-- `LD ST, Vx` (R216). -/
def execLdStV (x : Reg) (s : State) : Result := .next (s.setSt (s.reg x))

end Sys2Proof.Machine
end

