-- ==== Sys2Proof/Machine/Step.lean ====
section
/-! DEFINITION. `Step()` (40_cycle.md R100), and placing a word where the next step fetches. -/

namespace Sys2Proof.Machine

/-- `Step()`: nothing while halted (40_cycle.md R101); else fetch, advance `pc`, decode, execute and
tick (R100). -/
def step (s : State) : Host.Outcome State Fault Refusal :=
  if s.halted then .next s
  else
    match exec (decode s.fetchWord) s.advancePc with
    | .next t => .next t.endStep
    | .fault r => .fault r
    | .refused r => .refused r

/-- `s` with the instruction whose bits are `w` (numbered as opcode_table.json numbers them) stored
big-endian at `pc` (20_memory.md R54), and not halted, so that the very next step runs it (log 13). -/
def State.withFetchWord (s : State) (nbits w : Nat) : State :=
  let word : Word := BitVec.ofNat 16 (w % 2 ^ nbits)
  let s' := (s.writeByte s.pc.toNat (highByte word)).writeByte (s.pc.toNat + 1) (lowByte word)
  { s' with fault := 0 }

end Sys2Proof.Machine
end

