-- ==== Sys2Proof/Machine/Ports.lean ====
section
/-! DEFINITION. The host's side of the block (00_scope.md R7, 40_cycle.md R106): host actions, outputs, runs. -/

namespace Sys2Proof.Machine

/-- The host actions that write state (40_cycle.md R106). -/
inductive HostAction where
  /-- one `Step()` (R100) -/
  | step
  /-- write all sixteen key states (10_state.md R35) -/
  | writeKeypad (keys : Vector Bool 16)
  /-- load a program image (20_memory.md R62) -/
  | load (bytes : List Byte)
  /-- re-create the Machine State (70_reset_and_hazards.md R260) -/
  | reset
  /-- one timer tick, in decoupled mode (60_exceptions.md R237) -/
  | timerTick
  deriving DecidableEq, Repr

/-- `M[a + k] <- bytes[k]`, ascending. -/
def State.writeBytes (s : State) (a : Nat) : List Byte → State
  | [] => s
  | b :: bs => (s.writeByte a b).writeBytes (a + 1) bs

/-- `load(bytes)`: the image verbatim from 0x200 on, refused whole when it does not fit (20_memory.md R62). -/
def hostLoad (bytes : List Byte) (s : State) : Result :=
  if bytes.length > maxImage then .refused .imageTooLong else .next (s.writeBytes entry bytes)

/-- `timer_tick`: one `Tick()`, halted or not; only when the timers are decoupled (60_exceptions.md R237). -/
def hostTimerTick (s : State) : Result :=
  if s.config.timerDecoupled then .next s.tick else .refused .noTimerTick

/-- The keypad as the host last wrote it (10_state.md R35). -/
def hostWriteKeypad (keys : Vector Bool 16) (s : State) : Result := .next { s with keys := keys }

/-- `reset`: every item at its reset value (70_reset_and_hazards.md R260). The parameters stay; the
random source "needs no reset", so the draws taken stay taken (log 2). -/
def hostReset (s : State) : Result := .next (State.resetWith s.config s.draws)

/-- One host action. -/
def act : HostAction → State → Result
  | .step, s => Sys2Proof.Machine.step s
  | .writeKeypad keys, s => hostWriteKeypad keys s
  | .load bytes, s => hostLoad bytes s
  | .reset, s => hostReset s
  | .timerTick, s => hostTimerTick s

/-- The state after a host action: a refused one changes nothing (20_memory.md R62; log 14). -/
def afterAct (a : HostAction) (s : State) : State :=
  match act a s with
  | .next t => t
  | .fault _ => s
  | .refused _ => s

/-- The end of a run: the state after the last host action (40_cycle.md R108). -/
def runActs : List HostAction → State → State
  | [], s => s
  | a :: as, s => runActs as (afterAct a s)

/-! ## Outputs (00_scope.md R7) -/

/-- `sound = (ST != 0)` (60_exceptions.md R239). -/
def soundOut (s : State) : Bool := s.st != 0

/-- `fb[x][y]` (10_state.md R36). -/
def fbOut (s : State) (x : Fin 64) (y : Fin 32) : Bool := s.pixel x y

/-- `fault[1:0]` (10_state.md R38). -/
def faultOut (s : State) : BitVec 2 := s.fault

/-- `fault_pc[15:0]` (10_state.md R38). -/
def faultPcOut (s : State) : Addr := s.faultPc

/-- A run is faulted when `FAULT != NONE` at its end (40_cycle.md R108). -/
def runFaulted (as : List HostAction) (s : State) : Bool := (runActs as s).halted

end Sys2Proof.Machine
end

