-- ==== Sys2Proof/Safety.lean ====
section
/-! DEFINITION. The terms claims are stated in: frames, the legal states, the reset table, the sprite's cells, what each instruction writes. -/

namespace Sys2Proof.Machine

/-! ## Frames -/

/-- The parts of the state (10_state.md R20, and the model's `config` and `draws`). -/
inductive Part where
  | regs | pc | index | stack | dt | st | mem | keys | fb | fault | config | draws
  deriving DecidableEq, Repr

/-- The part reads the same in both states; memory through the read of one byte, at every address. -/
def State.same (s t : State) : Part → Prop
  | .regs => ∀ r, t.reg r = s.reg r
  | .pc => t.pc = s.pc
  | .index => t.I = s.I
  | .stack => t.sp = s.sp ∧ ∀ k, t.stackEntry k = s.stackEntry k
  | .dt => t.dt = s.dt
  | .st => t.st = s.st
  | .mem => ∀ a, t.readByte a = s.readByte a
  | .keys => ∀ k, t.key k = s.key k
  | .fb => ∀ c r, t.pixel c r = s.pixel c r
  | .fault => t.fault = s.fault ∧ t.faultPc = s.faultPc
  | .config => t.config = s.config
  | .draws => t.draws = s.draws

/-- Every part but the listed ones reads the same in `t` as in `s`. -/
def State.sameBut (s : State) (changed : List Part) (t : State) : Prop :=
  ∀ p, p ∉ changed → s.same t p

/-! ## Legal states -/

/-- What holds of every state a run reaches: memory in its canonical form (log 7); `FAULT` never 3
(10_state.md R38); `FAULT_PC` 0 until a fault writes it (R38, R42); a halted core stands at the
instruction that faulted, its stack full or empty as the cause says (60_exceptions.md R231, R232). -/
structure State.Legal (s : State) : Prop where
  memory : s.mem.wf s.config.fontData = true
  code : s.fault ≠ 3
  running : s.fault = 0 → s.faultPc = 0
  overflow : s.fault = 1 → s.sp = 16 ∧ s.pc = s.faultPc
  underflow : s.fault = 2 → s.sp = 0 ∧ s.pc = s.faultPc

/-! ## The reset table (10_state.md R42) -/

/-- Every item of the table of 10_state.md R42 has its value, with `font` as `FONT_DATA`. -/
structure State.AtReset (s : State) (font : Vector Byte 80) : Prop where
  regs : ∀ r, s.reg r = 0x00
  pc : s.pc = 0x200
  index : s.I = 0x0000
  sp : s.sp = 0
  stack : ∀ k, s.stackEntry k = 0x0000
  timers : s.dt = 0x00 ∧ s.st = 0x00
  font : ∀ k (h : k < 80), s.readByte (0x050 + k) = font[k]
  zeros : ∀ a, a < 4096 → a < 0x050 ∨ 0x0A0 ≤ a → s.readByte a = 0x00
  keys : ∀ k, s.key k = false
  screen : ∀ c r, s.pixel c r = false
  fault : s.fault = 0
  faultPc : s.faultPc = 0x0000

/-! ## The cells under the 1 bits of a sprite (41_display.md R121, R122) -/

/-- Cell (`c`, `r`) lies under a 1 bit of the `8 x n` sprite at `I`, drawn at (`vx`, `vy`). -/
def State.spriteCovers (s : State) (vx vy : Byte) (n : Nat) (c : Fin 64) (r : Fin 32) : Prop :=
  ∃ row col : Nat, row < n ∧ col < 8 ∧
    (s.readByte (s.I.toNat + row)).getLsbD (7 - col) = true ∧
    c.val = (vx.toNat + col) % 64 ∧ r.val = (vy.toNat + row) % 32

end Sys2Proof.Machine

namespace Sys2Proof

open Sys2Proof.Machine

/-! ## What each instruction may write -/

/-- The parts an instruction may write, `pc` being the advanced one: the access columns of
10_state.md R22, R26, R30, R31, R33, R34, R36, R38, R39 and 20_memory.md R51. A draw is taken by
`RND` alone (43_alu.md R173); the keypad and the parameters are written by none (R35). -/
def Instr.writes : Instr → List Part
  | .cls => [.fb]
  | .ret => [.stack, .pc, .fault]
  | .call _ => [.stack, .pc, .fault]
  | .jp _ | .jpV0 _ => [.pc]
  | .seK _ _ | .sneK _ _ | .seR _ _ | .sneR _ _ | .skp _ | .sknp _ => [.pc]
  | .ldK _ _ | .addK _ _ | .ldR _ _ | .orR _ _ | .andR _ _ | .xorR _ _ => [.regs]
  | .addR _ _ | .sub _ _ | .shr _ _ | .subn _ _ | .shl _ _ => [.regs]
  | .rnd _ _ => [.regs, .draws]
  | .drw _ _ _ => [.regs, .fb]
  | .ldI _ | .addI _ | .ldF _ => [.index]
  | .ldB _ | .stRegs _ => [.mem]
  | .ldRegs _ | .ldVDt _ => [.regs]
  | .ldVK _ => [.regs, .pc]
  | .ldDtV _ => [.dt]
  | .ldStV _ => [.st]
  | .nop0 _ | .nop8 _ | .nopE _ | .nopF _ => []

/-- Register `r` is a destination the instruction names: its `x`, or one of V0..Vx for `Fx65`
(10_state.md R22, 30_encoding.md R75). -/
def Instr.names (r : Reg) : Instr → Bool
  | .ldK x _ | .addK x _ | .ldR x _ | .orR x _ | .andR x _ | .xorR x _ | .addR x _ | .sub x _
  | .shr x _ | .subn x _ | .shl x _ | .rnd x _ | .ldVDt x | .ldVK x => r == x
  | .ldRegs x => decide (r ≤ x)
  | .cls | .ret | .jp _ | .call _ | .seK _ _ | .sneK _ _ | .seR _ _ | .sneR _ _ | .ldI _
  | .jpV0 _ | .drw _ _ _ | .skp _ | .sknp _ | .ldDtV _ | .ldStV _ | .addI _ | .ldF _ | .ldB _
  | .stRegs _ | .nop0 _ | .nop8 _ | .nopE _ | .nopF _ => false

/-- The instructions that write VF as a side effect: "exactly" these six (10_state.md R22). -/
def Instr.setsFlag : Instr → Bool
  | .addR _ _ | .sub _ _ | .shr _ _ | .subn _ _ | .shl _ _ | .drw _ _ _ => true
  | .cls | .ret | .jp _ | .call _ | .seK _ _ | .sneK _ _ | .seR _ _ | .sneR _ _ | .ldK _ _
  | .addK _ _ | .ldR _ _ | .orR _ _ | .andR _ _ | .xorR _ _ | .ldI _ | .jpV0 _ | .rnd _ _
  | .skp _ | .sknp _ | .ldVDt _ | .ldVK _ | .ldDtV _ | .ldStV _ | .addI _ | .ldF _ | .ldB _
  | .stRegs _ | .ldRegs _ | .nop0 _ | .nop8 _ | .nopE _ | .nopF _ => false

/-- The instructions that read the keypad (10_state.md R35). -/
def Instr.readsKeys : Instr → Bool
  | .skp _ | .sknp _ | .ldVK _ => true
  | .cls | .ret | .jp _ | .call _ | .seK _ _ | .sneK _ _ | .seR _ _ | .sneR _ _ | .ldK _ _
  | .addK _ _ | .ldR _ _ | .orR _ _ | .andR _ _ | .xorR _ _ | .addR _ _ | .sub _ _ | .shr _ _
  | .subn _ _ | .shl _ _ | .ldI _ | .jpV0 _ | .rnd _ _ | .drw _ _ _ | .ldVDt _ | .ldDtV _
  | .ldStV _ | .addI _ | .ldF _ | .ldB _ | .stRegs _ | .ldRegs _ | .nop0 _ | .nop8 _ | .nopE _
  | .nopF _ => false

end Sys2Proof
end

