-- ==== Sys2Proof/Certificates/Slice0/Obligations.lean ====
section
/-! DEFINITION. The statements for the provers; each docstring names the rule of spec/ it formalises. -/

open Sys2Proof Sys2Proof.Machine

/-! ## Encoding -/

/-- Decoding the two bytes of a well-formed instruction gives it back and leaves the rest
(30_encoding.md R70, R72, R84). -/
def Obligations.DecodeOfEncodeGivesTheInstructionBack : Prop :=
  ∀ (i : Instr) (rest : List Byte), i.wf = true →
    decodeBytes (encodeBytes i ++ rest) = .instr i rest

/-- 30_encoding.md R83: the rows are disjoint, a word of a row decodes to that row's instruction,
and a word of no row is the no-op of a multi-op family, with its secondary key. -/
def Obligations.DecodeFollowsTheOpcodeMap : Prop :=
  ∀ w : Word,
    (∀ row ∈ opcodeMap, ∀ row' ∈ opcodeMap, row.hits w = true → row'.hits w = true → row = row') ∧
    (∀ row ∈ opcodeMap, row.hits w = true → (decode w).row = some row) ∧
    ((∀ row ∈ opcodeMap, row.hits w = false) →
      (fieldF w = 0x0 ∧ decode w = .nop0 (fieldN w)) ∨
      (fieldF w = 0x8 ∧ decode w = .nop8 (fieldN w)) ∨
      (fieldF w = 0xE ∧ decode w = .nopE (fieldN w)) ∨
      (fieldF w = 0xF ∧ decode w = .nopF (fieldKK w)))

/-- 30_encoding.md R85: an ignored bit changes nothing, and two words with the same family and
secondary key decode to the same kind, so a used operand bit changes only the operand. A kind is a
row of R83, or the no-op of a family. Decoding reads no state: `decode` is given none. -/
def Obligations.DecodingDependsOnFamilyAndKeyOnly : Prop :=
  ∀ w w' : Word,
    (w &&& (decode w).usedBits = w' &&& (decode w).usedBits → decode w' = decode w) ∧
    (fieldF w = fieldF w' →
      (fieldF w ∈ [0x0, 0x8, 0xE] → fieldN w = fieldN w') →
      (fieldF w = 0xF → fieldKK w = fieldKK w') →
        (decode w').row = (decode w).row ∧ ((decode w).row = none → decode w' = decode w))

/-- What the decoder gives is a well-formed instruction, and encoding it again gives the bits of the
word that its format uses (30_encoding.md R73, R75, R82). -/
def Obligations.DecodedInstructionsAreWellFormedAndKeepTheirBits : Prop :=
  ∀ w : Word, (decode w).wf = true ∧
    encode (decode w) &&& (decode w).usedBits = w &&& (decode w).usedBits

/-- Words of the spec's own decoding table, L2-DEC of 95_test_vectors.md. -/
def Obligations.WordsOfTheSpecDecode : Prop :=
  decode 0x00E0 = .cls ∧ decode 0x0120 = .cls ∧ decode 0x0ABE = .ret ∧ decode 0x0123 = .nop0 3 ∧
  decode 0x5121 = .seR 1 2 ∧ decode 0x800F = .nop8 0xF ∧ decode 0x812E = .shl 1 2 ∧
  decode 0xE30E = .skp 3 ∧ decode 0xE3A1 = .sknp 3 ∧ decode 0xF10A = .ldVK 1 ∧
  decode 0x1FFF = .jp 0xFFF

/-! ## Memory -/

/-- 00_scope.md R12: a read gives the byte last written at the same address mod 4096, and every
address is reduced mod 4096. -/
def Obligations.ReadGivesTheByteLastWritten : Prop :=
  ∀ (s : State) (a b : Nat) (v : Byte),
    (s.writeByte a v).readByte b = (if b % 4096 = a % 4096 then v else s.readByte b) ∧
    s.readByte b = s.readByte (b % 4096)

/-- The canonical form is canonical (log 7, the model's choice): memories in that form that read
alike at every address are equal data. -/
def Obligations.CanonicalMemoriesThatReadAlikeAreEqual : Prop :=
  ∀ (font : Vector Byte 80) (m m' : Memory), m.wf font = true → m'.wf font = true →
    (∀ a, a < 4096 → m.read font a = m'.read font a) → m = m'

/-- A fetch reads the two bytes last written at `pc` and `pc + 1`, big-endian, wherever `pc` stands
(20_memory.md R54, R55, R56, R63). -/
def Obligations.FetchSeesTheBytesLastWritten : Prop :=
  ∀ (s : State) (hi lo : Byte),
    ((s.writeByte s.pc.toNat hi).writeByte (s.pc.toNat + 1) lo).fetchWord = hi ++ lo

/-! ## The step -/

/-- 40_cycle.md R100: halted, nothing; else the instruction that the two bytes at `pc` decode to
runs with `pc` advanced by 2, then each nonzero timer is decremented, unless the instruction raised
a fault or the timers are decoupled. -/
def Obligations.StepRunsTheDecodedInstruction : Prop :=
  ∀ s : State,
    (s.fault ≠ 0 → step s = .next s) ∧
    (s.fault = 0 → ∀ i : Instr,
      decode (s.readByte s.pc.toNat ++ s.readByte (s.pc.toNat + 1)) = i →
      ∀ t : State, exec i { s with pc := s.pc + 2 } = .next t →
        (t.fault = 0 ∧ t.config.timerDecoupled = false →
          step s = .next { t with dt := if t.dt = 0 then 0 else t.dt - 1,
                                  st := if t.st = 0 then 0 else t.st - 1 }) ∧
        (t.fault ≠ 0 ∨ t.config.timerDecoupled = true → step s = .next t))

/-- Every step completes: the outcomes fault and refused never occur (40_cycle.md R102, R105,
60_exceptions.md R246, 30_encoding.md R86). -/
def Obligations.EveryStepAnswersANextState : Prop :=
  ∀ s : State, ∃ t, step s = .next t

/-- 60_exceptions.md R236: in the default mode every step that is not halted and does not fault
ends with one tick of each timer, apart from the timer its own instruction loads. -/
def Obligations.TimersCountDownOncePerStep : Prop :=
  ∀ s : State, s.fault = 0 → s.config.timerDecoupled = false →
    ∃ t, step s = .next t ∧
      (t.fault = 0 →
        ((∀ x, decode s.fetchWord ≠ .ldDtV x) → t.dt.toNat = s.dt.toNat - 1) ∧
        ((∀ x, decode s.fetchWord ≠ .ldStV x) → t.st.toNat = s.st.toNat - 1))

/-- 30_encoding.md R82: a step whose word is of no row of the opcode map changes only `pc` and, in
the default mode, the timers; and no encoding traps: with the stack neither empty nor full, a step
of a running core raises no fault whatever its word. -/
def Obligations.UnmatchedKeysAreNoOpsAndNoEncodingTraps : Prop :=
  ∀ s : State, s.fault = 0 →
    ((∀ row ∈ opcodeMap, row.hits s.fetchWord = false) →
      exec (decode s.fetchWord) s = .next s ∧
      (s.config.timerDecoupled = false →
        step s = .next { s with pc := s.pc + 2, dt := if s.dt = 0 then 0 else s.dt - 1,
                                st := if s.st = 0 then 0 else s.st - 1 }) ∧
      (s.config.timerDecoupled = true → step s = .next { s with pc := s.pc + 2 })) ∧
    (s.sp ≠ 0 → s.sp ≠ 16 → ∃ t, step s = .next t ∧ t.fault = 0)

/-- The no-op of each multi-op family completes in every state, whatever its key, and changes
nothing (30_encoding.md R82). -/
def Obligations.NoOpsCompleteAndChangeNothing : Prop :=
  ∀ (s : State) (n : BitVec 4) (kk : Byte) (i : Instr),
    i ∈ [Instr.nop0 n, .nop8 n, .nopE n, .nopF kk] → exec i s = .next s

/-! ## Reset and the legal states -/

/-- 10_state.md R42 and 70_reset_and_hazards.md R260: after creation, and after the host's reset in
any state, every item has the value of the table; the parameters stay what they are. -/
def Obligations.ResetGivesEveryItemItsValue : Prop :=
  State.reset.AtReset State.reset.config.fontData ∧
  ∀ s : State, ∃ t, act .reset s = .next t ∧ t.AtReset s.config.fontData ∧ t.config = s.config

/-- The state after reset is legal. -/
def Obligations.ResetStateIsLegal : Prop := State.reset.Legal

/-- From every legal state a step gives a legal state (10_state.md R31, R38, 60_exceptions.md R231,
R232; the memory's canonical form is the model's, log 7). -/
def Obligations.EveryStepKeepsTheStateLegal : Prop :=
  ∀ s : State, s.Legal → ∃ t, step s = .next t ∧ t.Legal

/-- From every legal state every sequence of host actions, steps among them, leads to a legal state
(40_cycle.md R106). -/
def Obligations.EveryRunOfHostActionsKeepsTheStateLegal : Prop :=
  ∀ (as : List HostAction) (s : State), s.Legal → (runActs as s).Legal

/-! ## Display -/

/-- 41_display.md R120: every cell off, nothing else changed. -/
def Obligations.ClearScreenTurnsEveryCellOff : Prop :=
  ∀ s : State, ∃ t, exec .cls s = .next t ∧ (∀ c r, t.pixel c r = false) ∧ s.sameBut [.fb] t

/-- 41_display.md R121: the cells under 1 bits are flipped and no other; VF is 0x01 if one of them
was on and 0x00 otherwise; no other register changes, and nothing else. -/
def Obligations.DrawFlipsTheSpritesCellsAndReportsCollision : Prop :=
  ∀ (s : State) (x y : Reg) (n : BitVec 4), ∃ t, exec (.drw x y n) s = .next t ∧
    (∀ c r, s.spriteCovers (s.reg x) (s.reg y) n.toNat c r → t.pixel c r = !s.pixel c r) ∧
    (∀ c r, ¬ s.spriteCovers (s.reg x) (s.reg y) n.toNat c r → t.pixel c r = s.pixel c r) ∧
    ((∃ c r, s.spriteCovers (s.reg x) (s.reg y) n.toNat c r ∧ s.pixel c r = true) →
      t.reg 0xF = 0x01) ∧
    ((¬ ∃ c r, s.spriteCovers (s.reg x) (s.reg y) n.toNat c r ∧ s.pixel c r = true) →
      t.reg 0xF = 0x00) ∧
    (∀ r, r ≠ 0xF → t.reg r = s.reg r) ∧ s.sameBut [.regs, .fb] t

/-- 41_display.md R127 (a) and (b): the same draw twice restores the screen, and the second sets VF
to 0x01 exactly if a covered cell was off before the first. -/
def Obligations.DrawingTwiceRestoresTheScreen : Prop :=
  ∀ (s : State) (x y : Reg) (n : BitVec 4), x ≠ 0xF → y ≠ 0xF →
    ∃ t u, exec (.drw x y n) s = .next t ∧ exec (.drw x y n) t = .next u ∧
      (∀ c r, u.pixel c r = s.pixel c r) ∧
      (u.reg 0xF = 0x01 ↔
        ∃ c r, s.spriteCovers (s.reg x) (s.reg y) n.toNat c r ∧ t.pixel c r = true) ∧
      (u.reg 0xF = 0x01 ↔
        ∃ c r, s.spriteCovers (s.reg x) (s.reg y) n.toNat c r ∧ s.pixel c r = false)

/-! ## Control flow -/

/-- 42_control_flow.md R140: with an entry on the stack the top one goes to `pc`, unchecked and not
cleared; with none, StackUnderflow at the fetch address. -/
def Obligations.ReturnPopsTheTopEntryIntoPc : Prop :=
  ∀ s : State,
    (∀ k : Reg, s.sp.val = k.val + 1 → ∃ t, exec .ret s = .next t ∧
      t.sp.val = k.val ∧ t.pc = s.stackEntry k ∧ (∀ j, t.stackEntry j = s.stackEntry j) ∧
      s.sameBut [.pc, .stack] t) ∧
    (s.sp = 0 → ∃ t, exec .ret s = .next t ∧ t.fault = 2 ∧ t.faultPc = s.pc - 2 ∧
      t.pc = s.pc - 2 ∧ s.sameBut [.pc, .fault] t)

/-- 42_control_flow.md R142: with room on the stack the advanced `pc` is pushed and `pc` becomes
`nnn`; with none, StackOverflow at the fetch address. -/
def Obligations.CallPushesTheAdvancedPcAndJumps : Prop :=
  ∀ (s : State) (nnn : BitVec 12),
    (∀ k : Reg, s.sp.val = k.val → ∃ t, exec (.call nnn) s = .next t ∧
      t.sp.val = k.val + 1 ∧ t.stackEntry k = s.pc ∧
      (∀ j, j ≠ k → t.stackEntry j = s.stackEntry j) ∧ t.pc.toNat = nnn.toNat ∧
      s.sameBut [.pc, .stack] t) ∧
    (s.sp = 16 → ∃ t, exec (.call nnn) s = .next t ∧ t.fault = 1 ∧ t.faultPc = s.pc - 2 ∧
      t.pc = s.pc - 2 ∧ s.sameBut [.pc, .fault] t)

/-- 60_exceptions.md R232 with the causes of R231: a step that faults changes FAULT and FAULT_PC and
nothing else, `pc` and the timers included. -/
def Obligations.StackFaultsArePrecise : Prop :=
  ∀ s : State, s.fault = 0 →
    (∀ nnn, decode s.fetchWord = .call nnn → s.sp = 16 →
      step s = .next { s with fault := 1, faultPc := s.pc }) ∧
    (decode s.fetchWord = .ret → s.sp = 0 →
      step s = .next { s with fault := 2, faultPc := s.pc })

/-- A fault is raised by `CALL` on a full stack and `RET` on an empty one and in no other way, and
the reserved code 3 is never written (10_state.md R38, 60_exceptions.md R230, R231). -/
def Obligations.NothingElseRaisesAFault : Prop :=
  ∀ s t : State, s.fault = 0 → step s = .next t → t.fault ≠ 0 →
    (t.fault = 1 ∧ s.sp = 16 ∧ ∃ nnn, decode s.fetchWord = .call nnn) ∨
    (t.fault = 2 ∧ s.sp = 0 ∧ decode s.fetchWord = .ret)

/-- A return from the subroutine, whatever ran in between, as long as the stack is as the call left
it, goes to the instruction after the call (42_control_flow.md R142, 90_conflicts.md C8). -/
def Obligations.ReturnGoesBackToTheInstructionAfterTheCall : Prop :=
  ∀ (s t u : State) (nnn : BitVec 12), s.sp ≠ 16 → exec (.call nnn) s = .next t →
    State.same t u .stack →
      ∃ r, exec .ret u = .next r ∧ r.pc = s.pc ∧ r.sp = s.sp

/-- 42_control_flow.md R141 and R147: the jumps set `pc` to `nnn`, and to `nnn + V0` not reduced to
12 bits. -/
def Obligations.JumpsSetPc : Prop :=
  ∀ (s : State) (nnn : BitVec 12),
    (∃ t, exec (.jp nnn) s = .next t ∧ t.pc.toNat = nnn.toNat ∧ s.sameBut [.pc] t) ∧
    (∃ t, exec (.jpV0 nnn) s = .next t ∧ t.pc.toNat = nnn.toNat + (s.reg 0).toNat ∧
      s.sameBut [.pc] t)

/-- 42_control_flow.md R143 to R146: the skip is one more advance by 2, mod 2^16, when the condition
holds, and nothing else changes. -/
def Obligations.SkipsAdvancePcByTwoWhenTheConditionHolds : Prop :=
  ∀ (s : State) (x y : Reg) (kk : Byte),
    (∃ t, exec (.seK x kk) s = .next t ∧
      t.pc = (if s.reg x = kk then s.pc + 2 else s.pc) ∧ s.sameBut [.pc] t) ∧
    (∃ t, exec (.sneK x kk) s = .next t ∧
      t.pc = (if s.reg x = kk then s.pc else s.pc + 2) ∧ s.sameBut [.pc] t) ∧
    (∃ t, exec (.seR x y) s = .next t ∧
      t.pc = (if s.reg x = s.reg y then s.pc + 2 else s.pc) ∧ s.sameBut [.pc] t) ∧
    (∃ t, exec (.sneR x y) s = .next t ∧
      t.pc = (if s.reg x = s.reg y then s.pc else s.pc + 2) ∧ s.sameBut [.pc] t)

/-! ## Registers and arithmetic -/

/-- 43_alu.md R161 and R162: load immediate, and add immediate mod 256 with no flag. -/
def Obligations.ImmediateFormsWriteVxAlone : Prop :=
  ∀ (s : State) (x : Reg) (kk : Byte),
    (∃ t, exec (.ldK x kk) s = .next t ∧ t.reg x = kk ∧
      (∀ r, r ≠ x → t.reg r = s.reg r) ∧ s.sameBut [.regs] t) ∧
    (∃ t, exec (.addK x kk) s = .next t ∧
      (t.reg x).toNat = ((s.reg x).toNat + kk.toNat) % 256 ∧
      (∀ r, r ≠ x → t.reg r = s.reg r) ∧ s.sameBut [.regs] t)

/-- 43_alu.md R163 to R166: copy and the bitwise operations, bit by bit; VF is unchanged unless it
is the destination. -/
def Obligations.CopyAndLogicWriteVxAlone : Prop :=
  ∀ (s : State) (x y : Reg),
    (∃ t, exec (.ldR x y) s = .next t ∧ t.reg x = s.reg y ∧
      (∀ r, r ≠ x → t.reg r = s.reg r) ∧ s.sameBut [.regs] t) ∧
    (∃ t, exec (.orR x y) s = .next t ∧
      (∀ b, (t.reg x).getLsbD b = ((s.reg x).getLsbD b || (s.reg y).getLsbD b)) ∧
      (∀ r, r ≠ x → t.reg r = s.reg r) ∧ s.sameBut [.regs] t) ∧
    (∃ t, exec (.andR x y) s = .next t ∧
      (∀ b, (t.reg x).getLsbD b = ((s.reg x).getLsbD b && (s.reg y).getLsbD b)) ∧
      (∀ r, r ≠ x → t.reg r = s.reg r) ∧ s.sameBut [.regs] t) ∧
    (∃ t, exec (.xorR x y) s = .next t ∧
      (∀ b, (t.reg x).getLsbD b = ((s.reg x).getLsbD b ^^ (s.reg y).getLsbD b)) ∧
      (∀ r, r ≠ x → t.reg r = s.reg r) ∧ s.sameBut [.regs] t)

/-- 43_alu.md R167: the sum mod 256 in Vx, the carry in VF; with `x = 0xF` the sum stays in VF. -/
def Obligations.AddRegistersWritesSumAndCarry : Prop :=
  ∀ (s : State) (x y : Reg), ∃ t, exec (.addR x y) s = .next t ∧
    (t.reg x).toNat = ((s.reg x).toNat + (s.reg y).toNat) % 256 ∧
    (x ≠ 0xF → t.reg 0xF = if (s.reg x).toNat + (s.reg y).toNat > 255 then 0x01 else 0x00) ∧
    (∀ r, r ≠ x → r ≠ 0xF → t.reg r = s.reg r) ∧ s.sameBut [.regs] t

/-- 43_alu.md R168 and R170: the differences mod 256; `SUB` sets VF exactly if Vx > Vy, `SUBN`
exactly if Vx <= Vy, so on equal operands they differ. -/
def Obligations.SubtractionsWriteDifferenceAndComparison : Prop :=
  ∀ (s : State) (x y : Reg),
    (∃ t, exec (.sub x y) s = .next t ∧
      (t.reg x).toNat = ((s.reg x).toNat + 256 - (s.reg y).toNat) % 256 ∧
      (x ≠ 0xF → t.reg 0xF = if (s.reg x).toNat > (s.reg y).toNat then 0x01 else 0x00) ∧
      (∀ r, r ≠ x → r ≠ 0xF → t.reg r = s.reg r) ∧ s.sameBut [.regs] t) ∧
    (∃ t, exec (.subn x y) s = .next t ∧
      (t.reg x).toNat = ((s.reg y).toNat + 256 - (s.reg x).toNat) % 256 ∧
      (x ≠ 0xF → t.reg 0xF = if (s.reg x).toNat ≤ (s.reg y).toNat then 0x01 else 0x00) ∧
      (∀ r, r ≠ x → r ≠ 0xF → t.reg r = s.reg r) ∧ s.sameBut [.regs] t)

/-- 43_alu.md R169 and R171: Vy shifted by one into Vx, the bit shifted out in VF. -/
def Obligations.ShiftsWriteShiftedVyAndTheBitShiftedOut : Prop :=
  ∀ (s : State) (x y : Reg),
    (∃ t, exec (.shr x y) s = .next t ∧ (t.reg x).toNat = (s.reg y).toNat / 2 ∧
      (x ≠ 0xF → (t.reg 0xF).toNat = (s.reg y).toNat % 2) ∧
      (∀ r, r ≠ x → r ≠ 0xF → t.reg r = s.reg r) ∧ s.sameBut [.regs] t) ∧
    (∃ t, exec (.shl x y) s = .next t ∧ (t.reg x).toNat = 2 * (s.reg y).toNat % 256 ∧
      (x ≠ 0xF → (t.reg 0xF).toNat = (s.reg y).toNat / 128) ∧
      (∀ r, r ≠ x → r ≠ 0xF → t.reg r = s.reg r) ∧ s.sameBut [.regs] t)

/-- 43_alu.md R173: Vx is the next draw masked by `kk`, whatever the draw; the draw is consumed. The
draw's own value, and which draw it is, are free (log 2). -/
def Obligations.RandomIsTheNextDrawMasked : Prop :=
  ∀ (s : State) (x : Reg) (kk : Byte), ∃ t, exec (.rnd x kk) s = .next t ∧
    t.reg x = Config.randByte s.draws &&& kk ∧ t.reg x &&& ~~~kk = 0x00 ∧
    t.draws = s.draws + 1 ∧ (∀ r, r ≠ x → t.reg r = s.reg r) ∧ s.sameBut [.regs, .draws] t

/-- A step changes a register only if its instruction names it as a destination, or if it is VF and
the instruction is one of the six that set the flag (10_state.md R22). -/
def Obligations.RegistersChangeOnlyWhereNamedOrFlagged : Prop :=
  ∀ (i : Instr) (s t : State) (r : Reg), exec i s = .next t → i.names r = false →
    ¬ (r = 0xF ∧ i.setsFlag = true) → t.reg r = s.reg r

/-! ## Index register and memory -/

/-- 44_index_memory.md R190 to R192: `I` becomes `nnn`, `I + Vx` mod 2^16, the glyph's address. -/
def Obligations.IndexInstructionsWriteIAlone : Prop :=
  ∀ (s : State) (x : Reg) (nnn : BitVec 12),
    (∃ t, exec (.ldI nnn) s = .next t ∧ t.I.toNat = nnn.toNat ∧ s.sameBut [.index] t) ∧
    (∃ t, exec (.addI x) s = .next t ∧
      t.I.toNat = (s.I.toNat + (s.reg x).toNat) % 65536 ∧ s.sameBut [.index] t) ∧
    (∃ t, exec (.ldF x) s = .next t ∧ t.I.toNat = 0x050 + 5 * (s.reg x).toNat ∧
      s.sameBut [.index] t)

/-- 44_index_memory.md R193: the decimal digits at `I`, `I + 1`, `I + 2` mod 4096, every other byte
unchanged. -/
def Obligations.DecimalDigitsAreStoredAtI : Prop :=
  ∀ (s : State) (x : Reg), ∃ t, exec (.ldB x) s = .next t ∧
    (t.readByte s.I.toNat).toNat = (s.reg x).toNat / 100 ∧
    (t.readByte (s.I.toNat + 1)).toNat = (s.reg x).toNat / 10 % 10 ∧
    (t.readByte (s.I.toNat + 2)).toNat = (s.reg x).toNat % 10 ∧
    (∀ a, (∀ k, k < 3 → a % 4096 ≠ (s.I.toNat + k) % 4096) → t.readByte a = s.readByte a) ∧
    s.sameBut [.mem] t

/-- 44_index_memory.md R194: V0..Vx at `I .. I + x` mod 4096, every other byte unchanged, `I` too. -/
def Obligations.StoreRegistersWritesV0ToVxAtI : Prop :=
  ∀ (s : State) (x : Reg), ∃ t, exec (.stRegs x) s = .next t ∧
    (∀ r : Reg, r ≤ x → t.readByte (s.I.toNat + r.val) = s.reg r) ∧
    (∀ a, (∀ k, k ≤ x.val → a % 4096 ≠ (s.I.toNat + k) % 4096) → t.readByte a = s.readByte a) ∧
    s.sameBut [.mem] t

/-- 44_index_memory.md R195: V0..Vx from `I .. I + x` mod 4096, every other register unchanged, `I`
and memory too. -/
def Obligations.LoadRegistersReadsV0ToVxFromI : Prop :=
  ∀ (s : State) (x : Reg), ∃ t, exec (.ldRegs x) s = .next t ∧
    (∀ r : Reg, r ≤ x → t.reg r = s.readByte (s.I.toNat + r.val)) ∧
    (∀ r : Reg, x < r → t.reg r = s.reg r) ∧ s.sameBut [.regs] t

/-- Loading from where the registers were stored gives them back, whatever the registers held in
between (44_index_memory.md R194, R195: "Inverse of the above"). -/
def Obligations.LoadAfterStoreRestoresTheRegisters : Prop :=
  ∀ (s t u : State) (x : Reg), exec (.stRegs x) s = .next t →
    State.same t u .mem → u.I = s.I →
      ∃ w, exec (.ldRegs x) u = .next w ∧ ∀ r : Reg, r ≤ x → w.reg r = s.reg r

/-! ## Keypad and timers -/

/-- 45_timers_keypad.md R210, R211, R212: the key is the low nibble of Vx; the skip is by 2. -/
def Obligations.KeySkipsTestTheKeyOfTheLowNibble : Prop :=
  ∀ (s : State) (x k : Reg), k.val = (s.reg x).toNat % 16 →
    (∃ t, exec (.skp x) s = .next t ∧
      t.pc = (if s.key k = true then s.pc + 2 else s.pc) ∧ s.sameBut [.pc] t) ∧
    (∃ t, exec (.sknp x) s = .next t ∧
      t.pc = (if s.key k = true then s.pc else s.pc + 2) ∧ s.sameBut [.pc] t)

/-- 45_timers_keypad.md R214: the lowest pressed key goes to Vx; with none pressed `pc` goes back to
the fetch address and no register changes; the whole step of such a wait changes nothing but the
timers, which tick in the default mode (90_conflicts.md C7). -/
def Obligations.KeyWaitTakesTheLowestKeyOrRepeats : Prop :=
  ∀ (s : State) (x : Reg),
    (∀ k : Reg, s.key k = true → (∀ j, j < k → s.key j = false) →
      ∃ t, exec (.ldVK x) s = .next t ∧ (t.reg x).toNat = k.val ∧
        (∀ r, r ≠ x → t.reg r = s.reg r) ∧ s.sameBut [.regs] t) ∧
    ((∀ k, s.key k = false) →
      (∃ t, exec (.ldVK x) s = .next t ∧ t.pc = s.pc - 2 ∧ s.sameBut [.pc] t) ∧
      (s.fault = 0 → decode s.fetchWord = .ldVK x → s.config.timerDecoupled = false →
        step s = .next { s with dt := if s.dt = 0 then 0 else s.dt - 1,
                                st := if s.st = 0 then 0 else s.st - 1 }) ∧
      (s.fault = 0 → decode s.fetchWord = .ldVK x → s.config.timerDecoupled = true →
        step s = .next s))

/-- 45_timers_keypad.md R213, R215, R216: what the three timer instructions write when they execute,
before any tick. -/
def Obligations.TimerInstructionsCopyBetweenVxAndATimer : Prop :=
  ∀ (s : State) (x : Reg),
    (∃ t, exec (.ldVDt x) s = .next t ∧ t.reg x = s.dt ∧
      (∀ r, r ≠ x → t.reg r = s.reg r) ∧ s.sameBut [.regs] t) ∧
    (∃ t, exec (.ldDtV x) s = .next t ∧ t.dt = s.reg x ∧ s.sameBut [.dt] t) ∧
    (∃ t, exec (.ldStV x) s = .next t ∧ t.st = s.reg x ∧ s.sameBut [.st] t)

/-- 45_timers_keypad.md R217: a timer written in a step has ticked once when the step ends, a timer
read gives its value from before the tick, and in decoupled mode a step does not tick. -/
def Obligations.TimerWriteComesBeforeTheTick : Prop :=
  ∀ (s : State) (x : Reg), s.fault = 0 →
    (decode s.fetchWord = .ldDtV x → ∃ t, step s = .next t ∧
      (s.config.timerDecoupled = false → t.dt.toNat = (s.reg x).toNat - 1) ∧
      (s.config.timerDecoupled = true → t.dt = s.reg x ∧ t.st = s.st)) ∧
    (decode s.fetchWord = .ldStV x → ∃ t, step s = .next t ∧
      (s.config.timerDecoupled = false → t.st.toNat = (s.reg x).toNat - 1) ∧
      (s.config.timerDecoupled = true → t.st = s.reg x ∧ t.dt = s.dt)) ∧
    (decode s.fetchWord = .ldVDt x → ∃ t, step s = .next t ∧ t.reg x = s.dt ∧
      (s.config.timerDecoupled = false → t.dt.toNat = s.dt.toNat - 1) ∧
      (s.config.timerDecoupled = true → t.dt = s.dt))

/-- A sound timer loaded with 1 is silent when the step ends, with 2 or more it sounds
(60_exceptions.md R239, 70_reset_and_hazards.md R269). -/
def Obligations.SoundIsSeenOnlyFromTwoUp : Prop :=
  ∀ (s : State) (x : Reg), s.fault = 0 → s.config.timerDecoupled = false →
    decode s.fetchWord = .ldStV x →
      ∃ t, step s = .next t ∧ (soundOut t = true ↔ 2 ≤ (s.reg x).toNat)

/-! ## Rules of the whole machine -/

/-- Every instruction completes in every state, legal or not, and changes only the parts the spec
lets it write (10_state.md R22, R26, R30, R31, R33 to R36, R38, R39; 20_memory.md R51). -/
def Obligations.EveryInstructionCompletesAndWritesOnlyItsParts : Prop :=
  ∀ (i : Instr) (s : State), ∃ t, exec i s = .next t ∧ s.sameBut i.writes t

/-- No step changes the keypad or the machine's parameters, and only `RND` takes a draw
(10_state.md R35, 40_cycle.md R104). -/
def Obligations.StepsNeverWriteTheKeypad : Prop :=
  ∀ s t : State, step s = .next t → t.keys = s.keys ∧ t.config = s.config ∧
    ((∀ x kk, decode s.fetchWord ≠ .rnd x kk) → t.draws = s.draws)

/-- An instruction other than `SKP`, `SKNP` and `LD Vx,K` does the same whatever keys are pressed
(10_state.md R35). -/
def Obligations.OnlyKeyInstructionsReadTheKeypad : Prop :=
  ∀ (i : Instr) (s t : State) (ks : Vector Bool 16), i.readsKeys = false →
    exec i s = .next t → exec i { s with keys := ks } = .next { t with keys := ks }

/-- No instruction reads the sound timer: with another value in it, all else comes out the same
(10_state.md R34). -/
def Obligations.NoInstructionReadsTheSoundTimer : Prop :=
  ∀ (i : Instr) (s t : State) (b : Byte), exec i s = .next t →
    ∃ t', exec i { s with st := b } = .next t' ∧ { t' with st := t.st } = t

/-! ## The host -/

/-- 20_memory.md R62: an image of at most 3584 bytes stands verbatim from 0x200 on and nothing else
changes; a longer one is refused and nothing changes. -/
def Obligations.LoadCopiesTheImageOrRefusesItWhole : Prop :=
  ∀ (bytes : List Byte) (s : State),
    (bytes.length ≤ 3584 → ∃ t, act (.load bytes) s = .next t ∧
      (∀ k (h : k < bytes.length), t.readByte (0x200 + k) = bytes[k]) ∧
      (∀ a, a < 4096 → a < 0x200 ∨ 0x200 + bytes.length ≤ a → t.readByte a = s.readByte a) ∧
      s.sameBut [.mem] t) ∧
    (3584 < bytes.length →
      act (.load bytes) s = .refused .imageTooLong ∧ afterAct (.load bytes) s = s)

/-- The host's tick decrements each nonzero timer and changes nothing else, halted or not, when the
timers are decoupled (60_exceptions.md R237); when they are coupled the model refuses it (log 14). -/
def Obligations.HostTickOnlyWhenDecoupled : Prop :=
  ∀ s : State,
    (s.config.timerDecoupled = true → ∃ t, act .timerTick s = .next t ∧
      t.dt.toNat = s.dt.toNat - 1 ∧ t.st.toNat = s.st.toNat - 1 ∧ s.sameBut [.dt, .st] t) ∧
    (s.config.timerDecoupled = false →
      act .timerTick s = .refused .noTimerTick ∧ afterAct .timerTick s = s)

/-- A keypad write sets the sixteen keys and nothing else (10_state.md R35, 40_cycle.md R106). -/
def Obligations.KeypadWriteSetsTheKeys : Prop :=
  ∀ (s : State) (ks : Vector Bool 16), ∃ t, act (.writeKeypad ks) s = .next t ∧
    (∀ k : Reg, t.key k = ks[k]) ∧ s.sameBut [.keys] t

/-- A halted core stays halted, with all but memory, keypad and timers as they were, through every
run of host actions without a reset; a reset ends it (40_cycle.md R101, 60_exceptions.md R234). -/
def Obligations.OnlyResetLeavesTheHaltedState : Prop :=
  ∀ s : State, s.fault ≠ 0 →
    (∀ as : List HostAction, .reset ∉ as →
      s.sameBut [.mem, .keys, .dt, .st] (runActs as s) ∧ runFaulted as s = true) ∧
    (afterAct .reset s).fault = 0
end

