-- ==== Sys2Proof/Laws/Encoding.lean ====
section
/-! SUPPORT. The fields of a word put together from its fields (30_encoding.md R72, R73). -/

namespace Sys2Proof

/-! ## Bits of a concatenation -/

theorem getLsbD_append_A (f : BitVec 4) (nnn : BitVec 12) (i : Nat) :
    BitVec.getLsbD (f ++ nnn : Word) i = if i < 12 then nnn.getLsbD i else f.getLsbD (i - 12) :=
  BitVec.getLsbD_append

theorem getLsbD_append_XK (f : BitVec 4) (x : BitVec 4) (kk : Byte) (i : Nat) :
    BitVec.getLsbD (f ++ x ++ kk : Word) i =
      if i < 8 then kk.getLsbD i
      else if i - 8 < 4 then x.getLsbD (i - 8) else f.getLsbD (i - 8 - 4) :=
  (BitVec.getLsbD_append (x := f ++ x) (y := kk)).trans (by rw [BitVec.getLsbD_append])

theorem getLsbD_append_XYN (f x y n : BitVec 4) (i : Nat) :
    BitVec.getLsbD (f ++ x ++ y ++ n : Word) i =
      if i < 4 then n.getLsbD i
      else if i - 4 < 4 then y.getLsbD (i - 4)
      else if i - 4 - 4 < 4 then x.getLsbD (i - 4 - 4) else f.getLsbD (i - 4 - 4 - 4) :=
  (BitVec.getLsbD_append (x := f ++ x ++ y) (y := n)).trans (by
    rw [BitVec.getLsbD_append, BitVec.getLsbD_append])

theorem getLsbD_append_Z (f : BitVec 4) (z : Byte) (n : BitVec 4) (i : Nat) :
    BitVec.getLsbD (f ++ z ++ n : Word) i =
      if i < 4 then n.getLsbD i
      else if i - 4 < 8 then z.getLsbD (i - 4) else f.getLsbD (i - 4 - 8) :=
  (BitVec.getLsbD_append (x := f ++ z) (y := n)).trans (by rw [BitVec.getLsbD_append])

/-! ## Format A: f, nnn -/

theorem fieldF_A (f : BitVec 4) (nnn : BitVec 12) : fieldF (f ++ nnn) = f := by
  refine BitVec.eq_of_getLsbD_eq fun i hi => ?_
  rw [fieldF, BitVec.getLsbD_extractLsb', getLsbD_append_A, if_neg (by omega)]
  simp [hi]

theorem fieldNNN_A (f : BitVec 4) (nnn : BitVec 12) : fieldNNN (f ++ nnn) = nnn := by
  refine BitVec.eq_of_getLsbD_eq fun i hi => ?_
  rw [fieldNNN, BitVec.getLsbD_extractLsb', getLsbD_append_A, if_pos (by omega)]
  simp [hi]

/-! ## Formats XK and XF: f, x, kk -/

theorem fieldF_XK (f x : BitVec 4) (kk : Byte) : fieldF (f ++ x ++ kk) = f := by
  refine BitVec.eq_of_getLsbD_eq fun i hi => ?_
  rw [fieldF, BitVec.getLsbD_extractLsb', getLsbD_append_XK, if_neg (by omega), if_neg (by omega)]
  simp [hi, show 12 + i - 8 - 4 = i by omega]

theorem fieldX_XK (f : BitVec 4) (x : Reg) (kk : Byte) : fieldX (f ++ regBits x ++ kk) = x := by
  have : BitVec.extractLsb' 8 4 (f ++ regBits x ++ kk : Word) = regBits x := by
    refine BitVec.eq_of_getLsbD_eq fun i hi => ?_
    rw [BitVec.getLsbD_extractLsb', getLsbD_append_XK, if_neg (by omega), if_pos (by omega)]
    simp [hi]
  rw [fieldX, this, regBits]

theorem fieldKK_XK (f x : BitVec 4) (kk : Byte) : fieldKK (f ++ x ++ kk) = kk := by
  refine BitVec.eq_of_getLsbD_eq fun i hi => ?_
  rw [fieldKK, BitVec.getLsbD_extractLsb', getLsbD_append_XK, if_pos (by omega)]
  simp [hi]

/-- Format XE: the secondary key is the low nibble of `kk`. -/
theorem fieldN_XK (f x : BitVec 4) (kk : Byte) :
    fieldN (f ++ x ++ kk) = kk.extractLsb' 0 4 := by
  refine BitVec.eq_of_getLsbD_eq fun i hi => ?_
  rw [fieldN, BitVec.getLsbD_extractLsb', getLsbD_append_XK, if_pos (by omega),
    BitVec.getLsbD_extractLsb']

/-! ## Formats XY, XYK and XYN: f, x, y, n -/

theorem fieldF_XYN (f x y n : BitVec 4) : fieldF (f ++ x ++ y ++ n) = f := by
  refine BitVec.eq_of_getLsbD_eq fun i hi => ?_
  rw [fieldF, BitVec.getLsbD_extractLsb', getLsbD_append_XYN, if_neg (by omega),
    if_neg (by omega), if_neg (by omega)]
  simp [hi, show 12 + i - 4 - 4 - 4 = i by omega]

theorem fieldX_XYN (f : BitVec 4) (x : Reg) (y n : BitVec 4) :
    fieldX (f ++ regBits x ++ y ++ n) = x := by
  have : BitVec.extractLsb' 8 4 (f ++ regBits x ++ y ++ n : Word) = regBits x := by
    refine BitVec.eq_of_getLsbD_eq fun i hi => ?_
    rw [BitVec.getLsbD_extractLsb', getLsbD_append_XYN, if_neg (by omega), if_neg (by omega),
      if_pos (by omega)]
    simp [hi, show 8 + i - 4 - 4 = i by omega]
  rw [fieldX, this, regBits]

theorem fieldY_XYN (f x : BitVec 4) (y : Reg) (n : BitVec 4) :
    fieldY (f ++ x ++ regBits y ++ n) = y := by
  have : BitVec.extractLsb' 4 4 (f ++ x ++ regBits y ++ n : Word) = regBits y := by
    refine BitVec.eq_of_getLsbD_eq fun i hi => ?_
    rw [BitVec.getLsbD_extractLsb', getLsbD_append_XYN, if_neg (by omega), if_pos (by omega)]
    simp [hi]
  rw [fieldY, this, regBits]

theorem fieldN_XYN (f x y n : BitVec 4) : fieldN (f ++ x ++ y ++ n) = n := by
  refine BitVec.eq_of_getLsbD_eq fun i hi => ?_
  rw [fieldN, BitVec.getLsbD_extractLsb', getLsbD_append_XYN, if_pos (by omega)]
  simp [hi]

/-! ## The no-ops of families 0x0, 0x8 and 0xE: f, 0, n -/

theorem fieldF_Z (f : BitVec 4) (z : Byte) (n : BitVec 4) : fieldF (f ++ z ++ n) = f := by
  refine BitVec.eq_of_getLsbD_eq fun i hi => ?_
  rw [fieldF, BitVec.getLsbD_extractLsb', getLsbD_append_Z, if_neg (by omega), if_neg (by omega)]
  simp [hi, show 12 + i - 4 - 8 = i by omega]

theorem fieldN_Z (f : BitVec 4) (z : Byte) (n : BitVec 4) : fieldN (f ++ z ++ n) = n := by
  refine BitVec.eq_of_getLsbD_eq fun i hi => ?_
  rw [fieldN, BitVec.getLsbD_extractLsb', getLsbD_append_Z, if_pos (by omega)]
  simp [hi]

end Sys2Proof
end

