-- ==== Sys2Proof/Laws/State.lean ====
section
/-! SUPPORT. One lemma per field per update: what each named update of State leaves in each field. -/

namespace Sys2Proof.Machine

/-! ### `writeByte` -/
@[simp] theorem State.writeByte_v (s : State) (a : Nat) (b : Byte) : (s.writeByte a b).v = s.v := rfl
@[simp] theorem State.writeByte_pc (s : State) (a : Nat) (b : Byte) : (s.writeByte a b).pc = s.pc := rfl
@[simp] theorem State.writeByte_I (s : State) (a : Nat) (b : Byte) : (s.writeByte a b).I = s.I := rfl
@[simp] theorem State.writeByte_stack (s : State) (a : Nat) (b : Byte) : (s.writeByte a b).stack = s.stack := rfl
@[simp] theorem State.writeByte_sp (s : State) (a : Nat) (b : Byte) : (s.writeByte a b).sp = s.sp := rfl
@[simp] theorem State.writeByte_dt (s : State) (a : Nat) (b : Byte) : (s.writeByte a b).dt = s.dt := rfl
@[simp] theorem State.writeByte_st (s : State) (a : Nat) (b : Byte) : (s.writeByte a b).st = s.st := rfl
@[simp] theorem State.writeByte_mem (s : State) (a : Nat) (b : Byte) : (s.writeByte a b).mem = s.mem.write s.config.fontData (a % 4096) b := rfl
@[simp] theorem State.writeByte_keys (s : State) (a : Nat) (b : Byte) : (s.writeByte a b).keys = s.keys := rfl
@[simp] theorem State.writeByte_fb (s : State) (a : Nat) (b : Byte) : (s.writeByte a b).fb = s.fb := rfl
@[simp] theorem State.writeByte_fault (s : State) (a : Nat) (b : Byte) : (s.writeByte a b).fault = s.fault := rfl
@[simp] theorem State.writeByte_faultPc (s : State) (a : Nat) (b : Byte) : (s.writeByte a b).faultPc = s.faultPc := rfl
@[simp] theorem State.writeByte_config (s : State) (a : Nat) (b : Byte) : (s.writeByte a b).config = s.config := rfl
@[simp] theorem State.writeByte_draws (s : State) (a : Nat) (b : Byte) : (s.writeByte a b).draws = s.draws := rfl

/-! ### `setReg` -/
@[simp] theorem State.setReg_v (s : State) (r : Reg) (b : Byte) : (s.setReg r b).v = s.v.set r b := rfl
@[simp] theorem State.setReg_pc (s : State) (r : Reg) (b : Byte) : (s.setReg r b).pc = s.pc := rfl
@[simp] theorem State.setReg_I (s : State) (r : Reg) (b : Byte) : (s.setReg r b).I = s.I := rfl
@[simp] theorem State.setReg_stack (s : State) (r : Reg) (b : Byte) : (s.setReg r b).stack = s.stack := rfl
@[simp] theorem State.setReg_sp (s : State) (r : Reg) (b : Byte) : (s.setReg r b).sp = s.sp := rfl
@[simp] theorem State.setReg_dt (s : State) (r : Reg) (b : Byte) : (s.setReg r b).dt = s.dt := rfl
@[simp] theorem State.setReg_st (s : State) (r : Reg) (b : Byte) : (s.setReg r b).st = s.st := rfl
@[simp] theorem State.setReg_mem (s : State) (r : Reg) (b : Byte) : (s.setReg r b).mem = s.mem := rfl
@[simp] theorem State.setReg_keys (s : State) (r : Reg) (b : Byte) : (s.setReg r b).keys = s.keys := rfl
@[simp] theorem State.setReg_fb (s : State) (r : Reg) (b : Byte) : (s.setReg r b).fb = s.fb := rfl
@[simp] theorem State.setReg_fault (s : State) (r : Reg) (b : Byte) : (s.setReg r b).fault = s.fault := rfl
@[simp] theorem State.setReg_faultPc (s : State) (r : Reg) (b : Byte) : (s.setReg r b).faultPc = s.faultPc := rfl
@[simp] theorem State.setReg_config (s : State) (r : Reg) (b : Byte) : (s.setReg r b).config = s.config := rfl
@[simp] theorem State.setReg_draws (s : State) (r : Reg) (b : Byte) : (s.setReg r b).draws = s.draws := rfl

/-! ### `setPc` -/
@[simp] theorem State.setPc_v (s : State) (a : Addr) : (s.setPc a).v = s.v := rfl
@[simp] theorem State.setPc_pc (s : State) (a : Addr) : (s.setPc a).pc = a := rfl
@[simp] theorem State.setPc_I (s : State) (a : Addr) : (s.setPc a).I = s.I := rfl
@[simp] theorem State.setPc_stack (s : State) (a : Addr) : (s.setPc a).stack = s.stack := rfl
@[simp] theorem State.setPc_sp (s : State) (a : Addr) : (s.setPc a).sp = s.sp := rfl
@[simp] theorem State.setPc_dt (s : State) (a : Addr) : (s.setPc a).dt = s.dt := rfl
@[simp] theorem State.setPc_st (s : State) (a : Addr) : (s.setPc a).st = s.st := rfl
@[simp] theorem State.setPc_mem (s : State) (a : Addr) : (s.setPc a).mem = s.mem := rfl
@[simp] theorem State.setPc_keys (s : State) (a : Addr) : (s.setPc a).keys = s.keys := rfl
@[simp] theorem State.setPc_fb (s : State) (a : Addr) : (s.setPc a).fb = s.fb := rfl
@[simp] theorem State.setPc_fault (s : State) (a : Addr) : (s.setPc a).fault = s.fault := rfl
@[simp] theorem State.setPc_faultPc (s : State) (a : Addr) : (s.setPc a).faultPc = s.faultPc := rfl
@[simp] theorem State.setPc_config (s : State) (a : Addr) : (s.setPc a).config = s.config := rfl
@[simp] theorem State.setPc_draws (s : State) (a : Addr) : (s.setPc a).draws = s.draws := rfl

/-! ### `setI` -/
@[simp] theorem State.setI_v (s : State) (a : Addr) : (s.setI a).v = s.v := rfl
@[simp] theorem State.setI_pc (s : State) (a : Addr) : (s.setI a).pc = s.pc := rfl
@[simp] theorem State.setI_I (s : State) (a : Addr) : (s.setI a).I = a := rfl
@[simp] theorem State.setI_stack (s : State) (a : Addr) : (s.setI a).stack = s.stack := rfl
@[simp] theorem State.setI_sp (s : State) (a : Addr) : (s.setI a).sp = s.sp := rfl
@[simp] theorem State.setI_dt (s : State) (a : Addr) : (s.setI a).dt = s.dt := rfl
@[simp] theorem State.setI_st (s : State) (a : Addr) : (s.setI a).st = s.st := rfl
@[simp] theorem State.setI_mem (s : State) (a : Addr) : (s.setI a).mem = s.mem := rfl
@[simp] theorem State.setI_keys (s : State) (a : Addr) : (s.setI a).keys = s.keys := rfl
@[simp] theorem State.setI_fb (s : State) (a : Addr) : (s.setI a).fb = s.fb := rfl
@[simp] theorem State.setI_fault (s : State) (a : Addr) : (s.setI a).fault = s.fault := rfl
@[simp] theorem State.setI_faultPc (s : State) (a : Addr) : (s.setI a).faultPc = s.faultPc := rfl
@[simp] theorem State.setI_config (s : State) (a : Addr) : (s.setI a).config = s.config := rfl
@[simp] theorem State.setI_draws (s : State) (a : Addr) : (s.setI a).draws = s.draws := rfl

/-! ### `setDt` -/
@[simp] theorem State.setDt_v (s : State) (b : Byte) : (s.setDt b).v = s.v := rfl
@[simp] theorem State.setDt_pc (s : State) (b : Byte) : (s.setDt b).pc = s.pc := rfl
@[simp] theorem State.setDt_I (s : State) (b : Byte) : (s.setDt b).I = s.I := rfl
@[simp] theorem State.setDt_stack (s : State) (b : Byte) : (s.setDt b).stack = s.stack := rfl
@[simp] theorem State.setDt_sp (s : State) (b : Byte) : (s.setDt b).sp = s.sp := rfl
@[simp] theorem State.setDt_dt (s : State) (b : Byte) : (s.setDt b).dt = b := rfl
@[simp] theorem State.setDt_st (s : State) (b : Byte) : (s.setDt b).st = s.st := rfl
@[simp] theorem State.setDt_mem (s : State) (b : Byte) : (s.setDt b).mem = s.mem := rfl
@[simp] theorem State.setDt_keys (s : State) (b : Byte) : (s.setDt b).keys = s.keys := rfl
@[simp] theorem State.setDt_fb (s : State) (b : Byte) : (s.setDt b).fb = s.fb := rfl
@[simp] theorem State.setDt_fault (s : State) (b : Byte) : (s.setDt b).fault = s.fault := rfl
@[simp] theorem State.setDt_faultPc (s : State) (b : Byte) : (s.setDt b).faultPc = s.faultPc := rfl
@[simp] theorem State.setDt_config (s : State) (b : Byte) : (s.setDt b).config = s.config := rfl
@[simp] theorem State.setDt_draws (s : State) (b : Byte) : (s.setDt b).draws = s.draws := rfl

/-! ### `setSt` -/
@[simp] theorem State.setSt_v (s : State) (b : Byte) : (s.setSt b).v = s.v := rfl
@[simp] theorem State.setSt_pc (s : State) (b : Byte) : (s.setSt b).pc = s.pc := rfl
@[simp] theorem State.setSt_I (s : State) (b : Byte) : (s.setSt b).I = s.I := rfl
@[simp] theorem State.setSt_stack (s : State) (b : Byte) : (s.setSt b).stack = s.stack := rfl
@[simp] theorem State.setSt_sp (s : State) (b : Byte) : (s.setSt b).sp = s.sp := rfl
@[simp] theorem State.setSt_dt (s : State) (b : Byte) : (s.setSt b).dt = s.dt := rfl
@[simp] theorem State.setSt_st (s : State) (b : Byte) : (s.setSt b).st = b := rfl
@[simp] theorem State.setSt_mem (s : State) (b : Byte) : (s.setSt b).mem = s.mem := rfl
@[simp] theorem State.setSt_keys (s : State) (b : Byte) : (s.setSt b).keys = s.keys := rfl
@[simp] theorem State.setSt_fb (s : State) (b : Byte) : (s.setSt b).fb = s.fb := rfl
@[simp] theorem State.setSt_fault (s : State) (b : Byte) : (s.setSt b).fault = s.fault := rfl
@[simp] theorem State.setSt_faultPc (s : State) (b : Byte) : (s.setSt b).faultPc = s.faultPc := rfl
@[simp] theorem State.setSt_config (s : State) (b : Byte) : (s.setSt b).config = s.config := rfl
@[simp] theorem State.setSt_draws (s : State) (b : Byte) : (s.setSt b).draws = s.draws := rfl

/-! ### `setPixel` -/
@[simp] theorem State.setPixel_v (s : State) (c : Fin 64) (r : Fin 32) (b : Bool) : (s.setPixel c r b).v = s.v := rfl
@[simp] theorem State.setPixel_pc (s : State) (c : Fin 64) (r : Fin 32) (b : Bool) : (s.setPixel c r b).pc = s.pc := rfl
@[simp] theorem State.setPixel_I (s : State) (c : Fin 64) (r : Fin 32) (b : Bool) : (s.setPixel c r b).I = s.I := rfl
@[simp] theorem State.setPixel_stack (s : State) (c : Fin 64) (r : Fin 32) (b : Bool) : (s.setPixel c r b).stack = s.stack := rfl
@[simp] theorem State.setPixel_sp (s : State) (c : Fin 64) (r : Fin 32) (b : Bool) : (s.setPixel c r b).sp = s.sp := rfl
@[simp] theorem State.setPixel_dt (s : State) (c : Fin 64) (r : Fin 32) (b : Bool) : (s.setPixel c r b).dt = s.dt := rfl
@[simp] theorem State.setPixel_st (s : State) (c : Fin 64) (r : Fin 32) (b : Bool) : (s.setPixel c r b).st = s.st := rfl
@[simp] theorem State.setPixel_mem (s : State) (c : Fin 64) (r : Fin 32) (b : Bool) : (s.setPixel c r b).mem = s.mem := rfl
@[simp] theorem State.setPixel_keys (s : State) (c : Fin 64) (r : Fin 32) (b : Bool) : (s.setPixel c r b).keys = s.keys := rfl
@[simp] theorem State.setPixel_fb (s : State) (c : Fin 64) (r : Fin 32) (b : Bool) : (s.setPixel c r b).fb = s.fb.set c (s.fb[c].set r b) := rfl
@[simp] theorem State.setPixel_fault (s : State) (c : Fin 64) (r : Fin 32) (b : Bool) : (s.setPixel c r b).fault = s.fault := rfl
@[simp] theorem State.setPixel_faultPc (s : State) (c : Fin 64) (r : Fin 32) (b : Bool) : (s.setPixel c r b).faultPc = s.faultPc := rfl
@[simp] theorem State.setPixel_config (s : State) (c : Fin 64) (r : Fin 32) (b : Bool) : (s.setPixel c r b).config = s.config := rfl
@[simp] theorem State.setPixel_draws (s : State) (c : Fin 64) (r : Fin 32) (b : Bool) : (s.setPixel c r b).draws = s.draws := rfl

/-! ### `clearScreen` -/
@[simp] theorem State.clearScreen_v (s : State) : s.clearScreen.v = s.v := rfl
@[simp] theorem State.clearScreen_pc (s : State) : s.clearScreen.pc = s.pc := rfl
@[simp] theorem State.clearScreen_I (s : State) : s.clearScreen.I = s.I := rfl
@[simp] theorem State.clearScreen_stack (s : State) : s.clearScreen.stack = s.stack := rfl
@[simp] theorem State.clearScreen_sp (s : State) : s.clearScreen.sp = s.sp := rfl
@[simp] theorem State.clearScreen_dt (s : State) : s.clearScreen.dt = s.dt := rfl
@[simp] theorem State.clearScreen_st (s : State) : s.clearScreen.st = s.st := rfl
@[simp] theorem State.clearScreen_mem (s : State) : s.clearScreen.mem = s.mem := rfl
@[simp] theorem State.clearScreen_keys (s : State) : s.clearScreen.keys = s.keys := rfl
@[simp] theorem State.clearScreen_fb (s : State) : s.clearScreen.fb = Vector.replicate 64 (Vector.replicate 32 false) := rfl
@[simp] theorem State.clearScreen_fault (s : State) : s.clearScreen.fault = s.fault := rfl
@[simp] theorem State.clearScreen_faultPc (s : State) : s.clearScreen.faultPc = s.faultPc := rfl
@[simp] theorem State.clearScreen_config (s : State) : s.clearScreen.config = s.config := rfl
@[simp] theorem State.clearScreen_draws (s : State) : s.clearScreen.draws = s.draws := rfl

/-! ### `takeDraw` -/
@[simp] theorem State.takeDraw_v (s : State) : s.takeDraw.v = s.v := rfl
@[simp] theorem State.takeDraw_pc (s : State) : s.takeDraw.pc = s.pc := rfl
@[simp] theorem State.takeDraw_I (s : State) : s.takeDraw.I = s.I := rfl
@[simp] theorem State.takeDraw_stack (s : State) : s.takeDraw.stack = s.stack := rfl
@[simp] theorem State.takeDraw_sp (s : State) : s.takeDraw.sp = s.sp := rfl
@[simp] theorem State.takeDraw_dt (s : State) : s.takeDraw.dt = s.dt := rfl
@[simp] theorem State.takeDraw_st (s : State) : s.takeDraw.st = s.st := rfl
@[simp] theorem State.takeDraw_mem (s : State) : s.takeDraw.mem = s.mem := rfl
@[simp] theorem State.takeDraw_keys (s : State) : s.takeDraw.keys = s.keys := rfl
@[simp] theorem State.takeDraw_fb (s : State) : s.takeDraw.fb = s.fb := rfl
@[simp] theorem State.takeDraw_fault (s : State) : s.takeDraw.fault = s.fault := rfl
@[simp] theorem State.takeDraw_faultPc (s : State) : s.takeDraw.faultPc = s.faultPc := rfl
@[simp] theorem State.takeDraw_config (s : State) : s.takeDraw.config = s.config := rfl
@[simp] theorem State.takeDraw_draws (s : State) : s.takeDraw.draws = s.draws + 1 := rfl

/-! ### `raise` -/
@[simp] theorem State.raise_v (s : State) (e : StackFault) : (s.raise e).v = s.v := rfl
@[simp] theorem State.raise_pc (s : State) (e : StackFault) : (s.raise e).pc = s.fetchAddr := rfl
@[simp] theorem State.raise_I (s : State) (e : StackFault) : (s.raise e).I = s.I := rfl
@[simp] theorem State.raise_stack (s : State) (e : StackFault) : (s.raise e).stack = s.stack := rfl
@[simp] theorem State.raise_sp (s : State) (e : StackFault) : (s.raise e).sp = s.sp := rfl
@[simp] theorem State.raise_dt (s : State) (e : StackFault) : (s.raise e).dt = s.dt := rfl
@[simp] theorem State.raise_st (s : State) (e : StackFault) : (s.raise e).st = s.st := rfl
@[simp] theorem State.raise_mem (s : State) (e : StackFault) : (s.raise e).mem = s.mem := rfl
@[simp] theorem State.raise_keys (s : State) (e : StackFault) : (s.raise e).keys = s.keys := rfl
@[simp] theorem State.raise_fb (s : State) (e : StackFault) : (s.raise e).fb = s.fb := rfl
@[simp] theorem State.raise_fault (s : State) (e : StackFault) : (s.raise e).fault = e.code := rfl
@[simp] theorem State.raise_faultPc (s : State) (e : StackFault) : (s.raise e).faultPc = s.fetchAddr := rfl
@[simp] theorem State.raise_config (s : State) (e : StackFault) : (s.raise e).config = s.config := rfl
@[simp] theorem State.raise_draws (s : State) (e : StackFault) : (s.raise e).draws = s.draws := rfl

/-! ### `tick` -/
@[simp] theorem State.tick_v (s : State) : s.tick.v = s.v := rfl
@[simp] theorem State.tick_pc (s : State) : s.tick.pc = s.pc := rfl
@[simp] theorem State.tick_I (s : State) : s.tick.I = s.I := rfl
@[simp] theorem State.tick_stack (s : State) : s.tick.stack = s.stack := rfl
@[simp] theorem State.tick_sp (s : State) : s.tick.sp = s.sp := rfl
@[simp] theorem State.tick_dt (s : State) : s.tick.dt = tickDown s.dt := rfl
@[simp] theorem State.tick_st (s : State) : s.tick.st = tickDown s.st := rfl
@[simp] theorem State.tick_mem (s : State) : s.tick.mem = s.mem := rfl
@[simp] theorem State.tick_keys (s : State) : s.tick.keys = s.keys := rfl
@[simp] theorem State.tick_fb (s : State) : s.tick.fb = s.fb := rfl
@[simp] theorem State.tick_fault (s : State) : s.tick.fault = s.fault := rfl
@[simp] theorem State.tick_faultPc (s : State) : s.tick.faultPc = s.faultPc := rfl
@[simp] theorem State.tick_config (s : State) : s.tick.config = s.config := rfl
@[simp] theorem State.tick_draws (s : State) : s.tick.draws = s.draws := rfl

/-! ### `advancePc` -/
@[simp] theorem State.advancePc_v (s : State) : s.advancePc.v = s.v := rfl
@[simp] theorem State.advancePc_pc (s : State) : s.advancePc.pc = s.pc + 2 := rfl
@[simp] theorem State.advancePc_I (s : State) : s.advancePc.I = s.I := rfl
@[simp] theorem State.advancePc_stack (s : State) : s.advancePc.stack = s.stack := rfl
@[simp] theorem State.advancePc_sp (s : State) : s.advancePc.sp = s.sp := rfl
@[simp] theorem State.advancePc_dt (s : State) : s.advancePc.dt = s.dt := rfl
@[simp] theorem State.advancePc_st (s : State) : s.advancePc.st = s.st := rfl
@[simp] theorem State.advancePc_mem (s : State) : s.advancePc.mem = s.mem := rfl
@[simp] theorem State.advancePc_keys (s : State) : s.advancePc.keys = s.keys := rfl
@[simp] theorem State.advancePc_fb (s : State) : s.advancePc.fb = s.fb := rfl
@[simp] theorem State.advancePc_fault (s : State) : s.advancePc.fault = s.fault := rfl
@[simp] theorem State.advancePc_faultPc (s : State) : s.advancePc.faultPc = s.faultPc := rfl
@[simp] theorem State.advancePc_config (s : State) : s.advancePc.config = s.config := rfl
@[simp] theorem State.advancePc_draws (s : State) : s.advancePc.draws = s.draws := rfl

/-! ### `push` -/
@[simp] theorem State.push_v (s : State) (a : Addr) : (s.push a).v = s.v := by
  unfold State.push; split <;> rfl
@[simp] theorem State.push_pc (s : State) (a : Addr) : (s.push a).pc = s.pc := by
  unfold State.push; split <;> rfl
@[simp] theorem State.push_I (s : State) (a : Addr) : (s.push a).I = s.I := by
  unfold State.push; split <;> rfl
@[simp] theorem State.push_dt (s : State) (a : Addr) : (s.push a).dt = s.dt := by
  unfold State.push; split <;> rfl
@[simp] theorem State.push_st (s : State) (a : Addr) : (s.push a).st = s.st := by
  unfold State.push; split <;> rfl
@[simp] theorem State.push_mem (s : State) (a : Addr) : (s.push a).mem = s.mem := by
  unfold State.push; split <;> rfl
@[simp] theorem State.push_keys (s : State) (a : Addr) : (s.push a).keys = s.keys := by
  unfold State.push; split <;> rfl
@[simp] theorem State.push_fb (s : State) (a : Addr) : (s.push a).fb = s.fb := by
  unfold State.push; split <;> rfl
@[simp] theorem State.push_fault (s : State) (a : Addr) : (s.push a).fault = s.fault := by
  unfold State.push; split <;> rfl
@[simp] theorem State.push_faultPc (s : State) (a : Addr) : (s.push a).faultPc = s.faultPc := by
  unfold State.push; split <;> rfl
@[simp] theorem State.push_config (s : State) (a : Addr) : (s.push a).config = s.config := by
  unfold State.push; split <;> rfl
@[simp] theorem State.push_draws (s : State) (a : Addr) : (s.push a).draws = s.draws := by
  unfold State.push; split <;> rfl

/-! ### `popToPc` -/
@[simp] theorem State.popToPc_v (s : State) : s.popToPc.v = s.v := by
  unfold State.popToPc; split <;> rfl
@[simp] theorem State.popToPc_I (s : State) : s.popToPc.I = s.I := by
  unfold State.popToPc; split <;> rfl
@[simp] theorem State.popToPc_stack (s : State) : s.popToPc.stack = s.stack := by
  unfold State.popToPc; split <;> rfl
@[simp] theorem State.popToPc_dt (s : State) : s.popToPc.dt = s.dt := by
  unfold State.popToPc; split <;> rfl
@[simp] theorem State.popToPc_st (s : State) : s.popToPc.st = s.st := by
  unfold State.popToPc; split <;> rfl
@[simp] theorem State.popToPc_mem (s : State) : s.popToPc.mem = s.mem := by
  unfold State.popToPc; split <;> rfl
@[simp] theorem State.popToPc_keys (s : State) : s.popToPc.keys = s.keys := by
  unfold State.popToPc; split <;> rfl
@[simp] theorem State.popToPc_fb (s : State) : s.popToPc.fb = s.fb := by
  unfold State.popToPc; split <;> rfl
@[simp] theorem State.popToPc_fault (s : State) : s.popToPc.fault = s.fault := by
  unfold State.popToPc; split <;> rfl
@[simp] theorem State.popToPc_faultPc (s : State) : s.popToPc.faultPc = s.faultPc := by
  unfold State.popToPc; split <;> rfl
@[simp] theorem State.popToPc_config (s : State) : s.popToPc.config = s.config := by
  unfold State.popToPc; split <;> rfl
@[simp] theorem State.popToPc_draws (s : State) : s.popToPc.draws = s.draws := by
  unfold State.popToPc; split <;> rfl

/-! ### `skipIf` -/
@[simp] theorem State.skipIf_v (s : State) (c : Bool) : (s.skipIf c).v = s.v := by
  unfold State.skipIf; split <;> rfl
@[simp] theorem State.skipIf_I (s : State) (c : Bool) : (s.skipIf c).I = s.I := by
  unfold State.skipIf; split <;> rfl
@[simp] theorem State.skipIf_stack (s : State) (c : Bool) : (s.skipIf c).stack = s.stack := by
  unfold State.skipIf; split <;> rfl
@[simp] theorem State.skipIf_sp (s : State) (c : Bool) : (s.skipIf c).sp = s.sp := by
  unfold State.skipIf; split <;> rfl
@[simp] theorem State.skipIf_dt (s : State) (c : Bool) : (s.skipIf c).dt = s.dt := by
  unfold State.skipIf; split <;> rfl
@[simp] theorem State.skipIf_st (s : State) (c : Bool) : (s.skipIf c).st = s.st := by
  unfold State.skipIf; split <;> rfl
@[simp] theorem State.skipIf_mem (s : State) (c : Bool) : (s.skipIf c).mem = s.mem := by
  unfold State.skipIf; split <;> rfl
@[simp] theorem State.skipIf_keys (s : State) (c : Bool) : (s.skipIf c).keys = s.keys := by
  unfold State.skipIf; split <;> rfl
@[simp] theorem State.skipIf_fb (s : State) (c : Bool) : (s.skipIf c).fb = s.fb := by
  unfold State.skipIf; split <;> rfl
@[simp] theorem State.skipIf_fault (s : State) (c : Bool) : (s.skipIf c).fault = s.fault := by
  unfold State.skipIf; split <;> rfl
@[simp] theorem State.skipIf_faultPc (s : State) (c : Bool) : (s.skipIf c).faultPc = s.faultPc := by
  unfold State.skipIf; split <;> rfl
@[simp] theorem State.skipIf_config (s : State) (c : Bool) : (s.skipIf c).config = s.config := by
  unfold State.skipIf; split <;> rfl
@[simp] theorem State.skipIf_draws (s : State) (c : Bool) : (s.skipIf c).draws = s.draws := by
  unfold State.skipIf; split <;> rfl

/-! ### `endStep` -/
@[simp] theorem State.endStep_v (s : State) : s.endStep.v = s.v := by
  unfold State.endStep; split <;> rfl
@[simp] theorem State.endStep_pc (s : State) : s.endStep.pc = s.pc := by
  unfold State.endStep; split <;> rfl
@[simp] theorem State.endStep_I (s : State) : s.endStep.I = s.I := by
  unfold State.endStep; split <;> rfl
@[simp] theorem State.endStep_stack (s : State) : s.endStep.stack = s.stack := by
  unfold State.endStep; split <;> rfl
@[simp] theorem State.endStep_sp (s : State) : s.endStep.sp = s.sp := by
  unfold State.endStep; split <;> rfl
@[simp] theorem State.endStep_mem (s : State) : s.endStep.mem = s.mem := by
  unfold State.endStep; split <;> rfl
@[simp] theorem State.endStep_keys (s : State) : s.endStep.keys = s.keys := by
  unfold State.endStep; split <;> rfl
@[simp] theorem State.endStep_fb (s : State) : s.endStep.fb = s.fb := by
  unfold State.endStep; split <;> rfl
@[simp] theorem State.endStep_fault (s : State) : s.endStep.fault = s.fault := by
  unfold State.endStep; split <;> rfl
@[simp] theorem State.endStep_faultPc (s : State) : s.endStep.faultPc = s.faultPc := by
  unfold State.endStep; split <;> rfl
@[simp] theorem State.endStep_config (s : State) : s.endStep.config = s.config := by
  unfold State.endStep; split <;> rfl
@[simp] theorem State.endStep_draws (s : State) : s.endStep.draws = s.draws := by
  unfold State.endStep; split <;> rfl

/-! ### `flipPixel` -/
@[simp] theorem State.flipPixel_pc (s : State) (c : Fin 64) (r : Fin 32) : (s.flipPixel c r).pc = s.pc := by
  unfold State.flipPixel; split <;> rfl
@[simp] theorem State.flipPixel_I (s : State) (c : Fin 64) (r : Fin 32) : (s.flipPixel c r).I = s.I := by
  unfold State.flipPixel; split <;> rfl
@[simp] theorem State.flipPixel_stack (s : State) (c : Fin 64) (r : Fin 32) : (s.flipPixel c r).stack = s.stack := by
  unfold State.flipPixel; split <;> rfl
@[simp] theorem State.flipPixel_sp (s : State) (c : Fin 64) (r : Fin 32) : (s.flipPixel c r).sp = s.sp := by
  unfold State.flipPixel; split <;> rfl
@[simp] theorem State.flipPixel_dt (s : State) (c : Fin 64) (r : Fin 32) : (s.flipPixel c r).dt = s.dt := by
  unfold State.flipPixel; split <;> rfl
@[simp] theorem State.flipPixel_st (s : State) (c : Fin 64) (r : Fin 32) : (s.flipPixel c r).st = s.st := by
  unfold State.flipPixel; split <;> rfl
@[simp] theorem State.flipPixel_mem (s : State) (c : Fin 64) (r : Fin 32) : (s.flipPixel c r).mem = s.mem := by
  unfold State.flipPixel; split <;> rfl
@[simp] theorem State.flipPixel_keys (s : State) (c : Fin 64) (r : Fin 32) : (s.flipPixel c r).keys = s.keys := by
  unfold State.flipPixel; split <;> rfl
@[simp] theorem State.flipPixel_fault (s : State) (c : Fin 64) (r : Fin 32) : (s.flipPixel c r).fault = s.fault := by
  unfold State.flipPixel; split <;> rfl
@[simp] theorem State.flipPixel_faultPc (s : State) (c : Fin 64) (r : Fin 32) : (s.flipPixel c r).faultPc = s.faultPc := by
  unfold State.flipPixel; split <;> rfl
@[simp] theorem State.flipPixel_config (s : State) (c : Fin 64) (r : Fin 32) : (s.flipPixel c r).config = s.config := by
  unfold State.flipPixel; split <;> rfl
@[simp] theorem State.flipPixel_draws (s : State) (c : Fin 64) (r : Fin 32) : (s.flipPixel c r).draws = s.draws := by
  unfold State.flipPixel; split <;> rfl

end Sys2Proof.Machine
end

