-- ==== Sys2Proof/Laws/Memory.lean ====
section
/-! SUPPORT. The laws of memory: read after write, the canonical form kept by every operation, canonical memories determined by their reads. -/

namespace Sys2Proof.Machine

/-! ## Lists of cells -/

theorem Memory.lookup_erase (m : Memory) (a b : Nat) :
    (m.erase a).lookup b = if b = a then none else m.lookup b := by
  induction m with
  | nil => simp [Memory.erase, Memory.lookup]
  | cons c m ih =>
    obtain ⟨a', v⟩ := c
    unfold Memory.erase at ih ⊢
    by_cases h : a' = a
    · subst h
      rw [List.filter_cons_of_neg (by simp), ih]
      by_cases hb : b = a'
      · simp [hb]
      · simp [hb, Memory.lookup, Ne.symm hb]
    · rw [List.filter_cons_of_pos (by simpa using h)]
      simp only [Memory.lookup, ih]
      by_cases hb : a' = b
      · subst hb; simp [h]
      · simp [hb]

theorem Memory.lookup_insert (m : Memory) (a b : Nat) (v : Byte) (h : m.lookup a = none) :
    (m.insert a v).lookup b = if b = a then some v else m.lookup b := by
  induction m with
  | nil => simp [Memory.insert, Memory.lookup, eq_comm]
  | cons c m ih =>
    obtain ⟨a', v'⟩ := c
    simp only [Memory.lookup] at h
    split at h
    · exact absurd h (by simp)
    · rename_i hne
      simp only [Memory.insert]
      split
      · simp [Memory.lookup, eq_comm]
      · simp only [Memory.lookup, ih h]
        by_cases hb : a' = b
        · subst hb; simp [hne]
        · simp [hb]

theorem Memory.read_write (font : Vector Byte 80) (m : Memory) (a b : Nat) (v : Byte) :
    (m.write font a v).read font b = if b = a then v else m.read font b := by
  unfold Memory.write Memory.read
  split
  · rename_i hv
    rw [Memory.lookup_erase]
    by_cases hb : b = a
    · subst hb; simp [hv]
    · simp [hb]
  · rw [Memory.lookup_insert _ _ _ _ (by simp [Memory.lookup_erase]), Memory.lookup_erase]
    by_cases hb : b = a <;> simp [hb]

/-! ## The canonical form -/

/-- The canonical form as a proposition. -/
theorem Memory.wf_iff (font : Vector Byte 80) (m : Memory) :
    m.wf font = true ↔ m.Pairwise (fun c d => c.1 < d.1) ∧
      ∀ c ∈ m, c.1 < 4096 ∧ c.2 ≠ Memory.background font c.1 := by
  simp [Memory.wf]

theorem Memory.wf_nil (font : Vector Byte 80) : Memory.wf font [] = true := by
  simp [Memory.wf]

theorem Memory.mem_insert (m : Memory) (a : Nat) (v : Byte) (c : Host.Cell) :
    c ∈ m.insert a v ↔ c = (a, v) ∨ c ∈ m := by
  induction m with
  | nil => simp [Memory.insert]
  | cons d m ih =>
    simp only [Memory.insert]
    split
    · simp
    · simp only [List.mem_cons, ih]; tauto

theorem Memory.insert_rising (m : Memory) (a : Nat) (v : Byte)
    (hm : m.Pairwise fun c d => c.1 < d.1) (ha : ∀ c ∈ m, c.1 ≠ a) :
    (m.insert a v).Pairwise fun c d => c.1 < d.1 := by
  induction m with
  | nil => simp [Memory.insert]
  | cons d m ih =>
    rw [List.pairwise_cons] at hm
    simp only [Memory.insert]
    split
    · rename_i hlt
      refine List.pairwise_cons.2 ⟨?_, List.pairwise_cons.2 hm⟩
      intro c hc
      rcases List.mem_cons.1 hc with rfl | hc
      · exact hlt
      · exact Nat.lt_trans hlt (hm.1 c hc)
    · rename_i hge
      refine List.pairwise_cons.2 ⟨?_, ih hm.2 fun c hc => ha c (List.mem_cons_of_mem _ hc)⟩
      intro c hc
      rcases (Memory.mem_insert _ _ _ _).1 hc with rfl | hc
      · have := ha d List.mem_cons_self
        simp only at hge ⊢; omega
      · exact hm.1 c hc

/-- Every write inside the address space keeps the canonical form. -/
theorem Memory.wf_write (font : Vector Byte 80) (m : Memory) (a : Nat) (v : Byte)
    (hm : m.wf font = true) (ha : a < 4096) : (m.write font a v).wf font = true := by
  rw [Memory.wf_iff] at hm ⊢
  have hp : (m.erase a).Pairwise fun c d => c.1 < d.1 := hm.1.sublist List.filter_sublist
  have he : ∀ c ∈ m.erase a, c ∈ m ∧ c.1 ≠ a := fun c hc => by
    simpa [Memory.erase] using hc
  unfold Memory.write
  split
  · exact ⟨hp, fun c hc => hm.2 c (he c hc).1⟩
  · rename_i hv
    refine ⟨Memory.insert_rising _ _ _ hp fun c hc => (he c hc).2, fun c hc => ?_⟩
    rcases (Memory.mem_insert _ _ _ _).1 hc with rfl | hc
    · exact ⟨ha, hv⟩
    · exact hm.2 c (he c hc).1

/-- An entry of a memory whose addresses rise is what the lookup of its address gives. -/
theorem Memory.lookup_of_mem (m : Memory) (hm : m.Pairwise fun c d => c.1 < d.1) (a : Nat) (v : Byte) :
    m.lookup a = some v ↔ (a, v) ∈ m := by
  induction m with
  | nil => simp [Memory.lookup]
  | cons c m ih =>
    obtain ⟨a', v'⟩ := c
    rw [List.pairwise_cons] at hm
    simp only [Memory.lookup, List.mem_cons, Prod.mk.injEq]
    by_cases h : a' = a
    · subst h
      have : (a', v) ∉ m := fun hc => Nat.lt_irrefl a' (hm.1 (a', v) hc)
      simp [this, eq_comm]
    · simp [h, ih hm.2, Ne.symm h]

/-! ## The machine's primitives -/

/-- `MemRead` after `MemWrite` (00_scope.md R12). -/
theorem State.readByte_writeByte (s : State) (a b : Nat) (v : Byte) :
    (s.writeByte a v).readByte b = if b % 4096 = a % 4096 then v else s.readByte b := by
  unfold State.readByte
  exact Memory.read_write _ _ _ _ _

/-- A read sees memory and the font alone. -/
theorem State.readByte_congr {s t : State} (hm : t.mem = s.mem) (hc : t.config = s.config) (a : Nat) :
    t.readByte a = s.readByte a := by
  unfold State.readByte; rw [hm, hc]

theorem State.wf_writeByte (s : State) (a : Nat) (v : Byte)
    (h : s.mem.wf s.config.fontData = true) :
    (s.writeByte a v).mem.wf (s.writeByte a v).config.fontData = true :=
  Memory.wf_write _ _ _ _ h (Nat.mod_lt _ (by decide))

theorem State.wf_storeRegs (s : State) (n : Nat) (h : s.mem.wf s.config.fontData = true) :
    (s.storeRegs n).mem.wf (s.storeRegs n).config.fontData = true := by
  induction n with
  | zero => exact h
  | succ k ih => exact State.wf_writeByte _ _ _ ih

theorem State.wf_writeBytes (bs : List Byte) (s : State) (a : Nat)
    (h : s.mem.wf s.config.fontData = true) :
    (s.writeBytes a bs).mem.wf (s.writeBytes a bs).config.fontData = true := by
  induction bs generalizing s a with
  | nil => exact h
  | cons b bs ih => exact ih _ _ (State.wf_writeByte _ _ _ h)

/-- The reset state's memory is in the canonical form. -/
theorem State.wf_resetWith (c : Config) (n : Nat) :
    (State.resetWith c n).mem.wf (State.resetWith c n).config.fontData = true :=
  Memory.wf_nil _

end Sys2Proof.Machine
end

