-- ==== Sys2Proof/Laws/Ops.lean ====
section
/-! SUPPORT. One law per shared operation: what it can do, for proofs to cite instead of unfolding it. -/

namespace Sys2Proof.Machine

/-! ## Registers -/

theorem State.reg_setReg (s : State) (r q : Reg) (b : Byte) :
    (s.setReg r b).reg q = if q = r then b else s.reg q := by
  simp only [State.reg, State.setReg, Fin.getElem_fin, Vector.getElem_set]
  by_cases h : r.val = q.val
  · simp [h, Fin.ext h.symm]
  · have : q ≠ r := fun hq => h (by rw [hq])
    simp [h, this]

/-- A register reads the register file alone. -/
theorem State.reg_congr {s t : State} (h : t.v = s.v) (r : Reg) : t.reg r = s.reg r := by
  unfold State.reg; rw [h]

/-- VF first, then Vx: the result stands in Vx and the flag in VF when they differ (43_alu.md R172). -/
theorem State.reg_writeFlagThenReg (s : State) (x q : Reg) (flag result : Byte) :
    (s.writeFlagThenReg x flag result).reg q =
      if q = x then result else if q = 0xF then flag else s.reg q := by
  simp only [State.writeFlagThenReg, State.reg_setReg, VF]

theorem flagByte_eq (b : Bool) : flagByte b = if b = true then 0x01 else 0x00 := rfl

/-! ## Screen -/

theorem State.pixel_congr {s t : State} (h : t.fb = s.fb) (c : Fin 64) (r : Fin 32) :
    t.pixel c r = s.pixel c r := by
  unfold State.pixel; rw [h]

theorem State.pixel_setPixel (s : State) (c d : Fin 64) (r q : Fin 32) (b : Bool) :
    (s.setPixel c r b).pixel d q = if d = c ∧ q = r then b else s.pixel d q := by
  simp only [State.pixel, State.setPixel, Fin.getElem_fin, Vector.getElem_set]
  by_cases hc : c.val = d.val
  · obtain rfl : c = d := Fin.ext hc
    simp only [if_true, Vector.getElem_set, true_and]
    by_cases hr : r.val = q.val
    · simp [hr, Fin.ext hr.symm]
    · have : q ≠ r := fun h => hr (by rw [h])
      simp [hr, this]
  · have : d ≠ c := fun h => hc (by rw [h])
    simp [hc, this]

theorem State.pixel_clearScreen (s : State) (c : Fin 64) (r : Fin 32) :
    s.clearScreen.pixel c r = false := by
  simp [State.pixel, State.clearScreen]

/-- Flipping a cell changes that cell alone. -/
theorem State.pixel_flipPixel (s : State) (c d : Fin 64) (r q : Fin 32) :
    (s.flipPixel c r).pixel d q = if d = c ∧ q = r then !s.pixel c r else s.pixel d q := by
  unfold State.flipPixel
  split
  · rename_i h
    rw [State.pixel_setPixel, h]
    rfl
  · rename_i h
    rw [State.pixel_setPixel]
    simp [Bool.eq_false_iff.2 h]

/-- Flipping a cell sets VF when the cell was on, and writes no other register. -/
theorem State.reg_flipPixel (s : State) (c : Fin 64) (r : Fin 32) (q : Reg) :
    (s.flipPixel c r).reg q = if q = 0xF ∧ s.pixel c r = true then 0x01 else s.reg q := by
  unfold State.flipPixel
  split
  · rename_i h
    rw [State.reg_congr (State.setPixel_v _ _ _ _), State.reg_setReg]
    by_cases hq : q = 0xF <;> simp [VF, h, hq]
  · rename_i h
    rw [State.reg_congr (State.setPixel_v _ _ _ _)]
    simp [h]

/-! ## Stack -/

/-- A push with room: the entry at `SP` and `SP + 1`, nothing else. -/
theorem State.push_of_room (s : State) (a : Addr) (h : s.sp.val < 16) :
    s.push a = { s with stack := s.stack.set s.sp.val a, sp := ⟨s.sp.val + 1, by omega⟩ } := by
  simp [State.push, h]

/-- A pop with an entry: `SP - 1`, the entry there in `pc`, nothing else. -/
theorem State.popToPc_of_entry (s : State) (h : 0 < s.sp.val) :
    s.popToPc = { s with sp := ⟨s.sp.val - 1, by omega⟩, pc := s.stack[s.sp.val - 1] } := by
  simp [State.popToPc, h]

/-! ## Keys, skips, timers -/

theorem State.key_congr {s t : State} (h : t.keys = s.keys) (k : Reg) : t.key k = s.key k := by
  unfold State.key; rw [h]

/-- The scan finds a key exactly when it is pressed and no lower one is. -/
theorem State.lowestKey_eq_some (s : State) (k : Reg) :
    s.lowestKey = some k ↔ s.key k = true ∧ ∀ j, j < k → s.key j = false := by
  unfold State.lowestKey
  rw [List.find?_eq_some_iff_getElem]
  constructor
  · rintro ⟨hk, i, hi, rfl, hlow⟩
    refine ⟨hk, fun j hj => ?_⟩
    have := hlow j.val (by simpa [Fin.lt_def] using hj)
    simpa using this
  · rintro ⟨hk, hlow⟩
    refine ⟨hk, k.val, by simp, by simp, fun j hj => ?_⟩
    have := hlow ⟨j, Nat.lt_trans hj k.isLt⟩ hj
    simpa using this

theorem State.lowestKey_eq_none (s : State) : s.lowestKey = none ↔ ∀ k, s.key k = false := by
  simp [State.lowestKey]

theorem State.skipIf_pc (s : State) (c : Bool) :
    (s.skipIf c).pc = if c = true then s.pc + 2 else s.pc := by
  unfold State.skipIf; split <;> rfl

/-- One tick takes one from a timer that is not 0. -/
theorem tickDown_toNat (t : Byte) : (tickDown t).toNat = t.toNat - 1 := by
  unfold tickDown
  split <;> rename_i h <;> bv_omega

theorem tickDown_eq (t : Byte) : tickDown t = if t = 0 then 0 else t - 1 := by
  unfold tickDown
  split <;> rename_i h <;> simp_all

/-- A step that neither faulted nor is decoupled ends with a tick. -/
theorem State.endStep_ticks (s : State) (hf : s.fault = 0) (hd : s.config.timerDecoupled = false) :
    s.endStep = s.tick := by
  simp [State.endStep, State.halted, hf, hd]

/-- A faulting step, and a step in decoupled mode, ends as execution left it. -/
theorem State.endStep_idle (s : State) (h : s.fault ≠ 0 ∨ s.config.timerDecoupled = true) :
    s.endStep = s := by
  rcases h with h | h
  · rw [State.endStep, State.halted, bne_iff_ne.2 h]; rfl
  · simp [State.endStep, h]

/-! ## Register sequences -/

theorem regAt_val (r : Reg) : regAt r.val = r := Fin.ext (Nat.mod_eq_of_lt r.isLt)

/-- `storeRegs` changes memory alone. -/
theorem State.storeRegs_eq (s : State) (n : Nat) :
    s.storeRegs n = { s with mem := (s.storeRegs n).mem } := by
  induction n with
  | zero => rfl
  | succ k ih => simp only [State.storeRegs]; rw [ih]; rfl

/-- After `storeRegs n`, `n <= 16`, the bytes at `I .. I + n - 1` are the registers and no other changed. -/
theorem State.readByte_storeRegs (s : State) (n : Nat) (hn : n ≤ 16) (a : Nat) :
    (∀ k, k < n → a % 4096 = (s.I.toNat + k) % 4096 →
      (s.storeRegs n).readByte a = s.reg (regAt k)) ∧
    ((∀ k, k < n → a % 4096 ≠ (s.I.toNat + k) % 4096) →
      (s.storeRegs n).readByte a = s.readByte a) := by
  induction n with
  | zero => exact ⟨fun k hk => absurd hk (by omega), fun _ => rfl⟩
  | succ n ih =>
    have ih := ih (by omega)
    simp only [State.storeRegs, State.readByte_writeByte, State.effAddr]
    refine ⟨fun k hk ha => ?_, fun h => ?_⟩
    · by_cases hkn : k = n
      · subst hkn; simp [ha]
      · rw [if_neg (by omega)]
        exact ih.1 k (by omega) ha
    · rw [if_neg (h n (by omega))]
      exact ih.2 fun k hk => h k (by omega)

/-- `loadRegs` changes the registers alone. -/
theorem State.loadRegs_eq (s : State) (n : Nat) :
    s.loadRegs n = { s with v := (s.loadRegs n).v } := by
  induction n with
  | zero => rfl
  | succ k ih => simp only [State.loadRegs]; rw [ih]; rfl

/-- After `loadRegs n`, `n <= 16`, the registers below `n` are the bytes from `I` on and no other changed. -/
theorem State.reg_loadRegs (s : State) (n : Nat) (hn : n ≤ 16) (r : Reg) :
    (s.loadRegs n).reg r = if r.val < n then s.readByte (s.I.toNat + r.val) else s.reg r := by
  induction n with
  | zero => rfl
  | succ n ih =>
    simp only [State.loadRegs, State.reg_setReg, ih (by omega), State.effAddr]
    have hv : (regAt n).val = n := Nat.mod_eq_of_lt (by omega)
    by_cases h : r = regAt n
    · subst h
      rw [if_pos rfl, if_pos (by omega), hv]
    · have hne : r.val ≠ n := fun he => h (Fin.ext (by omega))
      rw [if_neg h]
      by_cases hlt : r.val < n
      · rw [if_pos hlt, if_pos (by omega)]
      · rw [if_neg hlt, if_neg (by omega)]

/-! ## Images -/

/-- `writeBytes` changes memory alone. -/
theorem State.writeBytes_eq (bs : List Byte) (s : State) (a : Nat) :
    s.writeBytes a bs = { s with mem := (s.writeBytes a bs).mem } := by
  induction bs generalizing s a with
  | nil => rfl
  | cons b bs ih => simp only [State.writeBytes]; rw [ih]; rfl

/-! ## The sprite -/

/-- Drawing columns changes the registers and the screen alone. -/
theorem State.drawColumns_eq (vx vy : Byte) (r : Nat) (b : Byte) (s : State) (n : Nat) :
    State.drawColumns vx vy r b s n = { s with
      v := (State.drawColumns vx vy r b s n).v, fb := (State.drawColumns vx vy r b s n).fb } := by
  induction n with
  | zero => rfl
  | succ c ih =>
    simp only [State.drawColumns]
    split
    · rw [ih]; unfold State.flipPixel; split <;> rfl
    · exact ih

/-- Drawing rows changes the registers and the screen alone. -/
theorem State.drawRows_eq (vx vy : Byte) (s : State) (n : Nat) :
    State.drawRows vx vy s n = { s with
      v := (State.drawRows vx vy s n).v, fb := (State.drawRows vx vy s n).fb } := by
  induction n with
  | zero => rfl
  | succ r ih =>
    simp only [State.drawRows]
    rw [State.drawColumns_eq, ih]

/-- Drawing columns writes no register but VF. -/
theorem State.reg_drawColumns (vx vy : Byte) (r : Nat) (b : Byte) (s : State) (n : Nat) (q : Reg)
    (hq : q ≠ 0xF) : (State.drawColumns vx vy r b s n).reg q = s.reg q := by
  induction n with
  | zero => rfl
  | succ c ih =>
    simp only [State.drawColumns]
    split
    · rw [State.reg_flipPixel, if_neg (fun h => hq h.1), ih]
    · exact ih

/-- Drawing rows writes no register but VF. -/
theorem State.reg_drawRows (vx vy : Byte) (s : State) (n : Nat) (q : Reg) (hq : q ≠ 0xF) :
    (State.drawRows vx vy s n).reg q = s.reg q := by
  induction n with
  | zero => rfl
  | succ r ih => simp only [State.drawRows]; rw [State.reg_drawColumns _ _ _ _ _ _ _ hq, ih]

/-! ## Decoding from bytes -/

/-- Bits 0 to 7 of a word are its second byte, bits 8 to 15 its first (20_memory.md R54). -/
theorem getLsbD_wordOfBytes (hi lo : Byte) (i : Nat) :
    (wordOfBytes hi lo).getLsbD i = if i < 8 then lo.getLsbD i else hi.getLsbD (i - 8) :=
  BitVec.getLsbD_append

/-- The high byte and the low byte make the word (20_memory.md R54). -/
theorem wordOfBytes_bytes (w : Word) : wordOfBytes (highByte w) (lowByte w) = w := by
  refine BitVec.eq_of_getLsbD_eq fun i hi => ?_
  rw [getLsbD_wordOfBytes]
  simp only [highByte, lowByte, BitVec.getLsbD_extractLsb']
  split
  · simp [*]
  · rw [decide_eq_true (by omega), Bool.true_and]; congr 1; omega

theorem highByte_wordOfBytes (hi lo : Byte) : highByte (wordOfBytes hi lo) = hi := by
  refine BitVec.eq_of_getLsbD_eq fun i h => ?_
  simp [highByte, getLsbD_wordOfBytes, h]

theorem lowByte_wordOfBytes (hi lo : Byte) : lowByte (wordOfBytes hi lo) = lo := by
  refine BitVec.eq_of_getLsbD_eq fun i h => ?_
  simp [lowByte, getLsbD_wordOfBytes, h]

/-! ## A run by parts -/

theorem runActs_append (as bs : List HostAction) (s : State) :
    runActs (as ++ bs) s = runActs bs (runActs as s) := by
  induction as generalizing s with
  | nil => rfl
  | cons a as ih => exact ih _

/-- A property that every host action keeps holds at the end of every run that starts with it. -/
theorem runActs_induction {P : State → Prop} (h : ∀ a s, P s → P (afterAct a s))
    (as : List HostAction) (s : State) (hs : P s) : P (runActs as s) := by
  induction as generalizing s with
  | nil => exact hs
  | cons a as ih => exact ih _ (h a s hs)

end Sys2Proof.Machine
end

