-- ==== Sys2Proof/Laws/Frames.lean ====
section
/-! SUPPORT. The frame of each shared operation, and how frames compose. -/

namespace Sys2Proof.Machine

/-! ## Frames in general -/

theorem State.sameBut_refl (s : State) (ps : List Part) : s.sameBut ps s := by
  intro p _
  cases p <;> simp [State.same]

theorem State.same_trans {s t u : State} {p : Part} (h : s.same t p) (h' : t.same u p) :
    s.same u p := by
  cases p <;> simp_all [State.same]

theorem State.sameBut_trans {s t u : State} {ps : List Part} (h : s.sameBut ps t)
    (h' : t.sameBut ps u) : s.sameBut ps u :=
  fun p hp => State.same_trans (h p hp) (h' p hp)

theorem State.sameBut_mono {s t : State} {ps qs : List Part} (h : s.sameBut ps t)
    (hsub : ∀ p ∈ ps, p ∈ qs) : s.sameBut qs t :=
  fun p hp => h p fun hps => hp (hsub p hps)

/-- The fields behind a part: two states that agree on them read the same there. -/
theorem State.sameBut_of_fields {s t : State} (ps : List Part)
    (hv : .regs ∉ ps → t.v = s.v) (hpc : .pc ∉ ps → t.pc = s.pc) (hI : .index ∉ ps → t.I = s.I)
    (hstack : .stack ∉ ps → t.sp = s.sp ∧ t.stack = s.stack) (hdt : .dt ∉ ps → t.dt = s.dt)
    (hst : .st ∉ ps → t.st = s.st)
    (hmem : .mem ∉ ps → t.mem = s.mem ∧ t.config = s.config)
    (hkeys : .keys ∉ ps → t.keys = s.keys) (hfb : .fb ∉ ps → t.fb = s.fb)
    (hfault : .fault ∉ ps → t.fault = s.fault ∧ t.faultPc = s.faultPc)
    (hconfig : .config ∉ ps → t.config = s.config) (hdraws : .draws ∉ ps → t.draws = s.draws) :
    s.sameBut ps t := by
  intro p hp
  cases p with
  | regs => exact State.reg_congr (hv hp)
  | pc => exact hpc hp
  | index => exact hI hp
  | stack => exact ⟨(hstack hp).1, fun k => by unfold State.stackEntry; rw [(hstack hp).2]⟩
  | dt => exact hdt hp
  | st => exact hst hp
  | mem => exact State.readByte_congr (hmem hp).1 (hmem hp).2
  | keys => exact State.key_congr (hkeys hp)
  | fb => exact State.pixel_congr (hfb hp)
  | fault => exact hfault hp
  | config => exact hconfig hp
  | draws => exact hdraws hp

/-! ## The frame of each operation -/

theorem State.sameBut_setReg (s : State) (r : Reg) (b : Byte) : s.sameBut [.regs] (s.setReg r b) := by
  apply State.sameBut_of_fields <;> simp

theorem State.sameBut_writeFlagThenReg (s : State) (x : Reg) (f b : Byte) :
    s.sameBut [.regs] (s.writeFlagThenReg x f b) := by
  apply State.sameBut_of_fields <;> simp [State.writeFlagThenReg]

theorem State.sameBut_setPc (s : State) (a : Addr) : s.sameBut [.pc] (s.setPc a) := by
  apply State.sameBut_of_fields <;> simp

theorem State.sameBut_setI (s : State) (a : Addr) : s.sameBut [.index] (s.setI a) := by
  apply State.sameBut_of_fields <;> simp

theorem State.sameBut_setDt (s : State) (b : Byte) : s.sameBut [.dt] (s.setDt b) := by
  apply State.sameBut_of_fields <;> simp

theorem State.sameBut_setSt (s : State) (b : Byte) : s.sameBut [.st] (s.setSt b) := by
  apply State.sameBut_of_fields <;> simp

theorem State.sameBut_skipIf (s : State) (c : Bool) : s.sameBut [.pc] (s.skipIf c) := by
  apply State.sameBut_of_fields <;> simp

theorem State.sameBut_writeByte (s : State) (a : Nat) (b : Byte) :
    s.sameBut [.mem] (s.writeByte a b) := by
  apply State.sameBut_of_fields <;> simp

theorem State.sameBut_storeRegs (s : State) (n : Nat) : s.sameBut [.mem] (s.storeRegs n) := by
  rw [State.storeRegs_eq]
  apply State.sameBut_of_fields <;> simp

theorem State.sameBut_loadRegs (s : State) (n : Nat) : s.sameBut [.regs] (s.loadRegs n) := by
  rw [State.loadRegs_eq]
  apply State.sameBut_of_fields <;> simp

theorem State.sameBut_writeBytes (s : State) (a : Nat) (bs : List Byte) :
    s.sameBut [.mem] (s.writeBytes a bs) := by
  rw [State.writeBytes_eq]
  apply State.sameBut_of_fields <;> simp

theorem State.sameBut_clearScreen (s : State) : s.sameBut [.fb] s.clearScreen := by
  apply State.sameBut_of_fields <;> simp

theorem State.sameBut_drawRows (vx vy : Byte) (s : State) (n : Nat) :
    s.sameBut [.regs, .fb] (State.drawRows vx vy s n) := by
  rw [State.drawRows_eq]
  apply State.sameBut_of_fields <;> simp

theorem State.sameBut_push (s : State) (a : Addr) : s.sameBut [.stack] (s.push a) := by
  apply State.sameBut_of_fields <;> simp

theorem State.sameBut_popToPc (s : State) : s.sameBut [.pc, .stack] s.popToPc := by
  apply State.sameBut_of_fields <;> simp

theorem State.sameBut_raise (s : State) (e : StackFault) : s.sameBut [.pc, .fault] (s.raise e) := by
  apply State.sameBut_of_fields <;> simp

theorem State.sameBut_takeDraw (s : State) : s.sameBut [.draws] s.takeDraw := by
  apply State.sameBut_of_fields <;> simp

theorem State.sameBut_tick (s : State) : s.sameBut [.dt, .st] s.tick := by
  apply State.sameBut_of_fields <;> simp

theorem State.sameBut_endStep (s : State) : s.sameBut [.dt, .st] s.endStep := by
  apply State.sameBut_of_fields <;> simp

end Sys2Proof.Machine
end

