-- ==== Sys2Proof/Laws/PerInstr.lean ====
section
/-! SUPPORT. Statements for all instructions, one lemma per constructor of Instr. -/

namespace Sys2Proof.Laws.FamilyOfWord

/-- The family nibble of the encoded word is the top nibble of the instruction's row in the opcode
map (30_encoding.md R76, R83); a no-op has its own family's (R82). -/
def Statement (i : Instr) : Prop :=
  fieldF (encode i) = match i with
    | .nop0 _ => 0x0
    | .nop8 _ => 0x8
    | .nopE _ => 0xE
    | .nopF _ => 0xF
    | j => match j.row with
      | some row => fieldF row.pattern
      | none => 0x0

theorem cls : Statement .cls := rfl
theorem ret : Statement .ret := rfl
theorem jp (nnn : BitVec 12) : Statement (.jp nnn) := (fieldF_A _ _).trans rfl
theorem call (nnn : BitVec 12) : Statement (.call nnn) := (fieldF_A _ _).trans rfl
theorem seK (x : Reg) (kk : Byte) : Statement (.seK x kk) := (fieldF_XK _ _ _).trans rfl
theorem sneK (x : Reg) (kk : Byte) : Statement (.sneK x kk) := (fieldF_XK _ _ _).trans rfl
theorem seR (x : Reg) (y : Reg) : Statement (.seR x y) := (fieldF_XYN _ _ _ _).trans rfl
theorem ldK (x : Reg) (kk : Byte) : Statement (.ldK x kk) := (fieldF_XK _ _ _).trans rfl
theorem addK (x : Reg) (kk : Byte) : Statement (.addK x kk) := (fieldF_XK _ _ _).trans rfl
theorem ldR (x : Reg) (y : Reg) : Statement (.ldR x y) := (fieldF_XYN _ _ _ _).trans rfl
theorem orR (x : Reg) (y : Reg) : Statement (.orR x y) := (fieldF_XYN _ _ _ _).trans rfl
theorem andR (x : Reg) (y : Reg) : Statement (.andR x y) := (fieldF_XYN _ _ _ _).trans rfl
theorem xorR (x : Reg) (y : Reg) : Statement (.xorR x y) := (fieldF_XYN _ _ _ _).trans rfl
theorem addR (x : Reg) (y : Reg) : Statement (.addR x y) := (fieldF_XYN _ _ _ _).trans rfl
theorem sub (x : Reg) (y : Reg) : Statement (.sub x y) := (fieldF_XYN _ _ _ _).trans rfl
theorem shr (x : Reg) (y : Reg) : Statement (.shr x y) := (fieldF_XYN _ _ _ _).trans rfl
theorem subn (x : Reg) (y : Reg) : Statement (.subn x y) := (fieldF_XYN _ _ _ _).trans rfl
theorem shl (x : Reg) (y : Reg) : Statement (.shl x y) := (fieldF_XYN _ _ _ _).trans rfl
theorem sneR (x : Reg) (y : Reg) : Statement (.sneR x y) := (fieldF_XYN _ _ _ _).trans rfl
theorem ldI (nnn : BitVec 12) : Statement (.ldI nnn) := (fieldF_A _ _).trans rfl
theorem jpV0 (nnn : BitVec 12) : Statement (.jpV0 nnn) := (fieldF_A _ _).trans rfl
theorem rnd (x : Reg) (kk : Byte) : Statement (.rnd x kk) := (fieldF_XK _ _ _).trans rfl
theorem drw (x : Reg) (y : Reg) (n : BitVec 4) : Statement (.drw x y n) := (fieldF_XYN _ _ _ _).trans rfl
theorem skp (x : Reg) : Statement (.skp x) := (fieldF_XK _ _ _).trans rfl
theorem sknp (x : Reg) : Statement (.sknp x) := (fieldF_XK _ _ _).trans rfl
theorem ldVDt (x : Reg) : Statement (.ldVDt x) := (fieldF_XK _ _ _).trans rfl
theorem ldVK (x : Reg) : Statement (.ldVK x) := (fieldF_XK _ _ _).trans rfl
theorem ldDtV (x : Reg) : Statement (.ldDtV x) := (fieldF_XK _ _ _).trans rfl
theorem ldStV (x : Reg) : Statement (.ldStV x) := (fieldF_XK _ _ _).trans rfl
theorem addI (x : Reg) : Statement (.addI x) := (fieldF_XK _ _ _).trans rfl
theorem ldF (x : Reg) : Statement (.ldF x) := (fieldF_XK _ _ _).trans rfl
theorem ldB (x : Reg) : Statement (.ldB x) := (fieldF_XK _ _ _).trans rfl
theorem stRegs (x : Reg) : Statement (.stRegs x) := (fieldF_XK _ _ _).trans rfl
theorem ldRegs (x : Reg) : Statement (.ldRegs x) := (fieldF_XK _ _ _).trans rfl
theorem nop0 (n : BitVec 4) : Statement (.nop0 n) := fieldF_Z _ _ _
theorem nop8 (n : BitVec 4) : Statement (.nop8 n) := fieldF_Z _ _ _
theorem nopE (n : BitVec 4) : Statement (.nopE n) := fieldF_Z _ _ _
theorem nopF (kk : Byte) : Statement (.nopF kk) := fieldF_XK _ _ _

end Sys2Proof.Laws.FamilyOfWord
end

