-- ==== Sys2Proof/Laws/Sprite.lean ====
section
/-! SUPPORT. What drawing rows of a sprite does to each cell and to VF (41_display.md R121 to R123). -/

namespace Sys2Proof.Machine

/-- The cells one row's loop over `n` columns flips. -/
def rowCovers (vx vy : Byte) (r : Nat) (b : Byte) (n : Nat) (d : Fin 64) (q : Fin 32) : Prop :=
  q = spriteRow vy r ∧ ∃ c, c < n ∧ b.getLsbD (7 - c) = true ∧ d = spriteColumn vx c

theorem spriteColumn_inj (vx : Byte) {c c' : Nat} (hc : c < 64) (hc' : c' < 64)
    (h : spriteColumn vx c = spriteColumn vx c') : c = c' := by
  simp only [spriteColumn, Fin.mk.injEq] at h; omega

theorem spriteRow_inj (vy : Byte) {r r' : Nat} (hr : r < 32) (hr' : r' < 32)
    (h : spriteRow vy r = spriteRow vy r') : r = r' := by
  simp only [spriteRow, Fin.mk.injEq] at h; omega

theorem State.pixel_drawColumns (vx vy : Byte) (r : Nat) (b : Byte) (s : State) (n : Nat)
    (hn : n ≤ 8) (d : Fin 64) (q : Fin 32) :
    (rowCovers vx vy r b n d q → (State.drawColumns vx vy r b s n).pixel d q = !s.pixel d q) ∧
    (¬ rowCovers vx vy r b n d q → (State.drawColumns vx vy r b s n).pixel d q = s.pixel d q) := by
  induction n with
  | zero => exact ⟨fun ⟨_, c, hc, _⟩ => absurd hc (by omega), fun _ => rfl⟩
  | succ n ih =>
    have ih := ih (by omega)
    simp only [State.drawColumns]
    by_cases hb : b.getLsbD (7 - n) = true
    · rw [if_pos hb, State.pixel_flipPixel]
      by_cases hhere : d = spriteColumn vx n ∧ q = spriteRow vy r
      · obtain ⟨rfl, rfl⟩ := hhere
        have hnot : ¬ rowCovers vx vy r b n (spriteColumn vx n) (spriteRow vy r) := by
          rintro ⟨-, c, hc, -, he⟩
          have := spriteColumn_inj vx (by omega) (by omega) he
          omega
        refine ⟨fun _ => ?_, fun h => absurd ⟨rfl, n, by omega, hb, rfl⟩ h⟩
        rw [if_pos ⟨rfl, rfl⟩, ih.2 hnot]
      · rw [if_neg hhere]
        refine ⟨fun ⟨hq, c, hc, hbit, hd⟩ => ih.1 ⟨hq, c, ?_, hbit, hd⟩, fun h =>
          ih.2 fun ⟨hq, c, hc, hbit, hd⟩ => h ⟨hq, c, by omega, hbit, hd⟩⟩
        rcases Nat.lt_succ_iff_lt_or_eq.1 hc with hlt | rfl
        · exact hlt
        · exact absurd ⟨hd, hq⟩ hhere
    · rw [if_neg hb]
      refine ⟨fun ⟨hq, c, hc, hbit, hd⟩ => ih.1 ⟨hq, c, ?_, hbit, hd⟩, fun h =>
          ih.2 fun ⟨hq, c, hc, hbit, hd⟩ => h ⟨hq, c, by omega, hbit, hd⟩⟩
      rcases Nat.lt_succ_iff_lt_or_eq.1 hc with hlt | rfl
      · exact hlt
      · exact absurd hbit hb

theorem State.vf_drawColumns (vx vy : Byte) (r : Nat) (b : Byte) (s : State) (n : Nat)
    (hn : n ≤ 8) :
    ((∃ d q, rowCovers vx vy r b n d q ∧ s.pixel d q = true) →
      (State.drawColumns vx vy r b s n).reg 0xF = 0x01) ∧
    ((¬ ∃ d q, rowCovers vx vy r b n d q ∧ s.pixel d q = true) →
      (State.drawColumns vx vy r b s n).reg 0xF = s.reg 0xF) := by
  induction n with
  | zero => exact ⟨fun ⟨_, _, ⟨_, c, hc, _⟩, _⟩ => absurd hc (by omega), fun _ => rfl⟩
  | succ n ih =>
    have ih := ih (by omega)
    have hwas : (State.drawColumns vx vy r b s n).pixel (spriteColumn vx n) (spriteRow vy r) =
        s.pixel (spriteColumn vx n) (spriteRow vy r) := by
      refine (State.pixel_drawColumns vx vy r b s n (by omega) _ _).2 ?_
      rintro ⟨-, c, hc, -, he⟩
      have := spriteColumn_inj vx (by omega) (by omega) he
      omega
    simp only [State.drawColumns]
    by_cases hb : b.getLsbD (7 - n) = true
    · rw [if_pos hb, State.reg_flipPixel, hwas]
      by_cases hon : s.pixel (spriteColumn vx n) (spriteRow vy r) = true
      · rw [if_pos ⟨rfl, hon⟩]
        exact ⟨fun _ => rfl, fun h => absurd ⟨_, _, ⟨rfl, n, by omega, hb, rfl⟩, hon⟩ h⟩
      · rw [if_neg fun h => hon h.2]
        refine ⟨fun ⟨d, q, ⟨hq, c, hc, hbit, hd⟩, hp⟩ => ih.1 ⟨d, q, ⟨hq, c, ?_, hbit, hd⟩, hp⟩,
          fun h => ih.2 fun ⟨d, q, ⟨hq, c, hc, hbit, hd⟩, hp⟩ =>
            h ⟨d, q, ⟨hq, c, by omega, hbit, hd⟩, hp⟩⟩
        rcases Nat.lt_succ_iff_lt_or_eq.1 hc with hlt | rfl
        · exact hlt
        · subst hq hd; exact absurd hp hon
    · rw [if_neg hb]
      refine ⟨fun ⟨d, q, ⟨hq, c, hc, hbit, hd⟩, hp⟩ => ih.1 ⟨d, q, ⟨hq, c, ?_, hbit, hd⟩, hp⟩,
          fun h => ih.2 fun ⟨d, q, ⟨hq, c, hc, hbit, hd⟩, hp⟩ =>
            h ⟨d, q, ⟨hq, c, by omega, hbit, hd⟩, hp⟩⟩
      rcases Nat.lt_succ_iff_lt_or_eq.1 hc with hlt | rfl
      · exact hlt
      · exact absurd hbit hb

/-- The sprite's cells, row by row. -/
theorem State.spriteCovers_iff (s : State) (vx vy : Byte) (n : Nat) (d : Fin 64) (q : Fin 32) :
    s.spriteCovers vx vy n d q ↔
      ∃ r, r < n ∧ rowCovers vx vy r (s.readByte (s.effAddr r)) 8 d q := by
  simp only [State.spriteCovers, rowCovers, spriteColumn, spriteRow, Fin.ext_iff, State.effAddr]
  constructor
  · rintro ⟨r, c, hr, hc, hb, hd, hq⟩; exact ⟨r, hr, hq, c, hc, hb, hd⟩
  · rintro ⟨r, hr, hq, c, hc, hb, hd⟩; exact ⟨r, c, hr, hc, hb, hd, hq⟩

/-- The sprite's bytes do not change while it is drawn. -/
theorem State.spriteByte_drawRows (vx vy : Byte) (s : State) (n r : Nat) :
    (State.drawRows vx vy s n).readByte ((State.drawRows vx vy s n).effAddr r) =
      s.readByte (s.effAddr r) := by
  rw [State.drawRows_eq]; rfl

theorem State.pixel_drawRows (vx vy : Byte) (s : State) (n : Nat) (hn : n ≤ 16) (d : Fin 64)
    (q : Fin 32) :
    (s.spriteCovers vx vy n d q → (State.drawRows vx vy s n).pixel d q = !s.pixel d q) ∧
    (¬ s.spriteCovers vx vy n d q → (State.drawRows vx vy s n).pixel d q = s.pixel d q) := by
  simp only [State.spriteCovers_iff]
  induction n with
  | zero => exact ⟨fun ⟨r, hr, _⟩ => absurd hr (by omega), fun _ => rfl⟩
  | succ n ih =>
    have ih := ih (by omega)
    simp only [State.drawRows, State.spriteByte_drawRows]
    have row := State.pixel_drawColumns vx vy n (s.readByte (s.effAddr n))
      (State.drawRows vx vy s n) 8 (by omega) d q
    by_cases hrow : rowCovers vx vy n (s.readByte (s.effAddr n)) 8 d q
    · have hnot : ¬ ∃ r, r < n ∧ rowCovers vx vy r (s.readByte (s.effAddr r)) 8 d q := by
        rintro ⟨r, hr, hq, -⟩
        have := spriteRow_inj vy (by omega) (by omega) (hq.symm.trans hrow.1)
        omega
      rw [row.1 hrow, ih.2 hnot]
      exact ⟨fun _ => rfl, fun h => absurd ⟨n, by omega, hrow⟩ h⟩
    · rw [row.2 hrow]
      refine ⟨fun ⟨r, hr, hc⟩ => ih.1 ⟨r, ?_, hc⟩, fun h =>
        ih.2 fun ⟨r, hr, hc⟩ => h ⟨r, by omega, hc⟩⟩
      rcases Nat.lt_succ_iff_lt_or_eq.1 hr with hlt | rfl
      · exact hlt
      · exact absurd hc hrow

theorem State.vf_drawRows (vx vy : Byte) (s : State) (n : Nat) (hn : n ≤ 16) :
    ((∃ d q, s.spriteCovers vx vy n d q ∧ s.pixel d q = true) →
      (State.drawRows vx vy s n).reg 0xF = 0x01) ∧
    ((¬ ∃ d q, s.spriteCovers vx vy n d q ∧ s.pixel d q = true) →
      (State.drawRows vx vy s n).reg 0xF = s.reg 0xF) := by
  induction n with
  | zero =>
    simp only [State.spriteCovers_iff]
    exact ⟨fun ⟨_, _, ⟨r, hr, _⟩, _⟩ => absurd hr (by omega), fun _ => rfl⟩
  | succ n ih =>
    have ih := ih (by omega)
    have row := State.vf_drawColumns vx vy n (s.readByte (s.effAddr n))
      (State.drawRows vx vy s n) 8 (by omega)
    have hwas : ∀ d q, rowCovers vx vy n (s.readByte (s.effAddr n)) 8 d q →
        (State.drawRows vx vy s n).pixel d q = s.pixel d q := fun d q hrow => by
      refine (State.pixel_drawRows vx vy s n (by omega) d q).2 fun h => ?_
      obtain ⟨r, hr, hq, -⟩ := (State.spriteCovers_iff ..).1 h
      have := spriteRow_inj vy (by omega) (by omega) (hq.symm.trans hrow.1)
      omega
    simp only [State.drawRows, State.spriteByte_drawRows]
    by_cases hrow : ∃ d q, rowCovers vx vy n (s.readByte (s.effAddr n)) 8 d q ∧
        (State.drawRows vx vy s n).pixel d q = true
    · rw [row.1 hrow]
      refine ⟨fun _ => rfl, fun h => ?_⟩
      obtain ⟨d, q, hc, hp⟩ := hrow
      exact absurd ⟨d, q, (State.spriteCovers_iff ..).2 ⟨n, by omega, hc⟩, hwas d q hc ▸ hp⟩ h
    · rw [row.2 hrow]
      refine ⟨fun ⟨d, q, hc, hp⟩ => ih.1 ⟨d, q, ?_, hp⟩, fun h => ih.2 fun ⟨d, q, hc, hp⟩ => ?_⟩
      · obtain ⟨r, hr, hrc⟩ := (State.spriteCovers_iff ..).1 hc
        refine (State.spriteCovers_iff ..).2 ⟨r, ?_, hrc⟩
        rcases Nat.lt_succ_iff_lt_or_eq.1 hr with hlt | rfl
        · exact hlt
        · exact absurd ⟨d, q, hrc, (hwas d q hrc).trans hp⟩ hrow
      · obtain ⟨r, hr, hc⟩ := (State.spriteCovers_iff ..).1 hc
        exact h ⟨d, q, (State.spriteCovers_iff ..).2 ⟨r, by omega, hc⟩, hp⟩

end Sys2Proof.Machine
end

