-- ==== Sys2Proof/Laws/Step.lean ====
section
/-! SUPPORT. What one step and one host action can do, said once. -/

namespace Sys2Proof.Machine

/-- A halted core answers the state itself (40_cycle.md R101). -/
theorem step_of_halted (s : State) (h : s.fault ≠ 0) : step s = .next s := by
  simp only [step, State.halted, bne_iff_ne.2 h]; rfl

/-- A running core answers what its instruction leaves, ended (40_cycle.md R100). -/
theorem step_of_running (s t : State) (h : s.fault = 0)
    (ht : exec (decode s.fetchWord) s.advancePc = .next t) : step s = .next t.endStep := by
  simp [step, State.halted, h, ht]

/-- Everything a step that answers a next state can have done. -/
theorem step_cases {s t : State} (h : step s = .next t) :
    (s.fault ≠ 0 ∧ t = s) ∨
    (s.fault = 0 ∧ ∃ u, exec (decode s.fetchWord) s.advancePc = .next u ∧ t = u.endStep) := by
  by_cases hf : s.fault = 0
  · right
    refine ⟨hf, ?_⟩
    simp only [step, State.halted, hf, bne_self_eq_false] at h
    generalize exec (decode s.fetchWord) s.advancePc = o at h ⊢
    cases o with
    | next u => exact ⟨u, rfl, by simpa using h.symm⟩
    | fault r => simp at h
    | refused r => simp at h
  · left
    exact ⟨hf, by simpa using ((step_of_halted s hf).symm.trans h).symm⟩

/-- Everything a host action other than a step can leave: the state itself when refused. -/
theorem afterAct_cases (a : HostAction) (s : State) :
    (∃ t, act a s = .next t ∧ afterAct a s = t) ∨
    ((∀ t, act a s ≠ .next t) ∧ afterAct a s = s) := by
  unfold afterAct
  cases act a s with
  | next t => exact .inl ⟨t, rfl, rfl⟩
  | fault r => exact .inr ⟨by simp, rfl⟩
  | refused r => exact .inr ⟨by simp, rfl⟩

/-- The word placed by `withFetchWord` is the one fetched. -/
theorem fetchWord_withFetchWord (s : State) (w : Word) :
    (s.withFetchWord 16 w.toNat).fetchWord = w := by
  have hne : s.pc.toNat % 4096 ≠ (s.pc.toNat + 1) % 4096 := by omega
  have hw : BitVec.ofNat 16 (w.toNat % 2 ^ 16) = w := by
    rw [Nat.mod_eq_of_lt w.isLt, BitVec.ofNat_toNat, BitVec.setWidth_eq]
  have hread : ∀ a, (s.withFetchWord 16 w.toNat).readByte a =
      ((s.writeByte s.pc.toNat (highByte w)).writeByte (s.pc.toNat + 1) (lowByte w)).readByte a := by
    intro a; simp only [State.withFetchWord, hw]; rfl
  have hpc : (s.withFetchWord 16 w.toNat).pc = s.pc := rfl
  simp only [State.fetchWord, hread, hpc, State.readByte_writeByte, if_neg hne, if_true,
    wordOfBytes_bytes]

end Sys2Proof.Machine
end

