-- ==== Sys2Proof/Tests/Slice0.lean ====
section
/-! SUPPORT. The model's own tests: expected values are the spec's (95_test_vectors.md, by id, or a rule's example); witnesses for the statements' hypotheses. -/

namespace Sys2Proof.Tests

open Sys2Proof.Machine

/-! ## Well-formedness refuses (30_encoding.md R78 to R82) -/

theorem test_wf_refuses_nop0 : (Instr.nop0 0xE).wf = false ∧ (Instr.nop0 0x0).wf = false := by decide
theorem test_wf_refuses_nop8 : (Instr.nop8 0x4).wf = false ∧ (Instr.nop8 0xE).wf = false := by decide
theorem test_wf_refuses_nopE : (Instr.nopE 0xE).wf = false ∧ (Instr.nopE 0x1).wf = false := by decide
theorem test_wf_refuses_nopF : (Instr.nopF 0x65).wf = false ∧ (Instr.nopF 0x07).wf = false := by decide

/-! ## Decoding: words written out from R83; L2-DEC -/

theorem test_decode_family0 : decode 0x00E0 = .cls ∧ decode 0x0000 = .cls ∧ decode 0x0120 = .cls ∧
    decode 0x00EE = .ret ∧ decode 0x0ABE = .ret ∧ decode 0x0123 = .nop0 3 := by decide
theorem test_decode_control : decode 0x1FFF = .jp 0xFFF ∧ decode 0x2345 = .call 0x345 ∧
    decode 0x3A42 = .seK 0xA 0x42 ∧ decode 0x4B43 = .sneK 0xB 0x43 ∧ decode 0x5121 = .seR 1 2 ∧
    decode 0x912F = .sneR 1 2 ∧ decode 0xB201 = .jpV0 0x201 := by decide
theorem test_decode_immediates : decode 0x6A42 = .ldK 0xA 0x42 ∧ decode 0x7F01 = .addK 0xF 0x01 ∧
    decode 0xA123 = .ldI 0x123 ∧ decode 0xC30F = .rnd 3 0x0F ∧ decode 0xD12F = .drw 1 2 0xF := by decide
theorem test_decode_family8 : decode 0x8120 = .ldR 1 2 ∧ decode 0x8341 = .orR 3 4 ∧
    decode 0x8562 = .andR 5 6 ∧ decode 0x8783 = .xorR 7 8 ∧ decode 0x89A4 = .addR 9 0xA ∧
    decode 0x8BC5 = .sub 0xB 0xC ∧ decode 0x8DE6 = .shr 0xD 0xE ∧ decode 0x8F07 = .subn 0xF 0 ∧
    decode 0x812E = .shl 1 2 ∧ decode 0x8008 = .nop8 8 ∧ decode 0x800F = .nop8 0xF := by decide
theorem test_decode_familyE : decode 0xE39E = .skp 3 ∧ decode 0xE30E = .skp 3 ∧
    decode 0xE3A1 = .sknp 3 ∧ decode 0xE301 = .sknp 3 ∧ decode 0xE300 = .nopE 0 := by decide
theorem test_decode_familyF : decode 0xF107 = .ldVDt 1 ∧ decode 0xF20A = .ldVK 2 ∧
    decode 0xF315 = .ldDtV 3 ∧ decode 0xF418 = .ldStV 4 ∧ decode 0xF51E = .addI 5 ∧
    decode 0xF629 = .ldF 6 ∧ decode 0xF733 = .ldB 7 ∧ decode 0xF855 = .stRegs 8 ∧
    decode 0xFF65 = .ldRegs 0xF ∧ decode 0xF000 = .nopF 0 ∧ decode 0xF5FF = .nopF 0xFF := by decide
theorem test_decodeBytes_big_endian : decodeBytes [0x60, 0x05, 0x70] = .instr (.ldK 0 0x05) [0x70] ∧
    decodeBytes [0x60] = .rejected .truncated ∧ decodeBytes [] = .rejected .truncated := by decide
theorem test_decodeTableWord : decodeTableWord 16 0x8124 = some (.addR 1 2) := by decide
theorem test_encode_canonical : encode .cls = 0x00E0 ∧ encode (.skp 3) = 0xE39E ∧
    encode (.drw 1 2 5) = 0xD125 := by decide

/-! ## One step from a small state -/

/-- One step of word `w`, placed where `s` fetches. -/
def run (s : State) (w : Nat) : State := afterAct .step (s.withFetchWord 16 w)

/-- The reset state with V1 and V2 set. -/
def with12 (a b : Byte) : State := (State.reset.setReg 1 a).setReg 2 b

theorem test_reset_runs_placed_word : step (State.reset.withFetchWord 16 0x6005) =
    .next (((State.reset.withFetchWord 16 0x6005).setPc 0x202).setReg 0 0x05) := by rfl

/-- The example of 43_alu.md R161 and L2-CYC-1. -/
theorem test_ldK : (run State.reset 0x6005).reg 0 = 0x05 ∧ (run State.reset 0x6005).pc = 0x202 := by
  decide
/-- L2-ALU-2. -/
theorem test_addK_wraps : (run (with12 0x01 0) 0x71FF).reg 1 = 0x00 ∧
    (run (with12 0x01 0) 0x71FF).reg 0xF = 0x00 := by decide
/-- L2-ALU-4. -/
theorem test_ldR : (run (with12 0x03 0x09) 0x8120).reg 1 = 0x09 := by decide
/-- L2-ALU-5. -/
theorem test_or_keeps_vf : (run ((with12 0x0F 0xF0).setReg 0xF 0x55) 0x8121).reg 1 = 0xFF ∧
    (run ((with12 0x0F 0xF0).setReg 0xF 0x55) 0x8121).reg 0xF = 0x55 := by decide
/-- L2-ALU-6. -/
theorem test_and : (run (with12 0x0F 0x3C) 0x8122).reg 1 = 0x0C := by decide
/-- L2-ALU-7. -/
theorem test_xor : (run (with12 0xFF 0x0F) 0x8123).reg 1 = 0xF0 := by decide
/-- L2-ALU-8. -/
theorem test_addR_carry : (run (with12 0xFF 0x01) 0x8124).reg 1 = 0x00 ∧
    (run (with12 0xFF 0x01) 0x8124).reg 0xF = 0x01 := by decide
/-- L2-ALU-26: with VF as destination the sum stands. -/
theorem test_addR_into_vf : (run ((with12 0x01 0).setReg 0xF 0xFF) 0x8F14).reg 0xF = 0x00 := by decide
/-- L2-ALU-13: strictly greater. -/
theorem test_sub_equal : (run (with12 5 5) 0x8125).reg 1 = 0x00 ∧
    (run (with12 5 5) 0x8125).reg 0xF = 0x00 := by decide
/-- L2-ALU-32: VF latched as operand. -/
theorem test_sub_vf_operand : (run ((with12 0x10 0).setReg 0xF 1) 0x81F5).reg 1 = 0x0F ∧
    (run ((with12 0x10 0).setReg 0xF 1) 0x81F5).reg 0xF = 0x01 := by decide
/-- L2-ALU-18. -/
theorem test_subn_borrow : (run (with12 5 3) 0x8127).reg 1 = 0xFE ∧
    (run (with12 5 3) 0x8127).reg 0xF = 0x00 := by decide
/-- L2-ALU-17. -/
theorem test_subn_equal : (run (with12 5 5) 0x8127).reg 0xF = 0x01 := by decide
/-- L2-ALU-19: Vy is shifted. -/
theorem test_shr : (run (with12 0x77 0x03) 0x8126).reg 1 = 0x01 ∧
    (run (with12 0x77 0x03) 0x8126).reg 0xF = 0x01 := by decide
/-- L2-ALU-22. -/
theorem test_shl : (run (with12 0 0x81) 0x812E).reg 1 = 0x02 ∧
    (run (with12 0 0x81) 0x812E).reg 0xF = 0x01 := by decide
/-- L2-ALU-36: a zero mask gives 0 whatever the draw. -/
theorem test_rnd_zero_mask : (run (State.reset.setReg 3 7) 0xC300).reg 3 = 0x00 := by
  show Config.randByte 0 &&& 0x00 = 0x00
  exact BitVec.and_zero
/-- L2-IDX-1. -/
theorem test_ldI : (run State.reset 0xA123).I = 0x123 := by decide
/-- L2-IDX-2. -/
theorem test_addI_wraps : (run ((with12 1 0).setI 0xFFFF) 0xF11E).I = 0x0000 ∧
    (run ((with12 1 0).setI 0xFFFF) 0xF11E).reg 0xF = 0x00 := by decide
/-- L2-IDX-4, L2-IDX-6. -/
theorem test_ldF : (run (with12 0x0A 0) 0xF129).I = 0x082 ∧ (run (with12 0xFF 0) 0xF129).I = 0x54B := by
  decide
/-- L2-IDX-10: the digits wrap at 0xFFF. -/
theorem test_ldB_wraps : (run ((with12 123 0).setI 0x0FFF) 0xF133).readByte 0xFFF = 1 ∧
    (run ((with12 123 0).setI 0x0FFF) 0xF133).readByte 0x000 = 2 ∧
    (run ((with12 123 0).setI 0x0FFF) 0xF133).readByte 0x001 = 3 := by decide
/-- L2-IDX-17: the font is writable, and one byte alone is stored. -/
theorem test_stRegs_font : (run (State.reset.setI 0x050) 0xF055).readByte 0x050 = 0x00 ∧
    (run (State.reset.setI 0x050) 0xF055).readByte 0x051 = 0x90 := by decide
/-- Glyph 0 of 10_state.md R41 read back, and V2 kept as in L2-IDX-14. -/
theorem test_ldRegs : (run ((with12 0 0x33).setI 0x050) 0xF165).reg 0 = 0xF0 ∧
    (run ((with12 0 0x33).setI 0x050) 0xF165).reg 1 = 0x90 ∧
    (run ((with12 0 0x33).setI 0x050) 0xF165).reg 2 = 0x33 := by decide
/-- L2-DSP-1. -/
theorem test_cls : (run (State.reset.setPixel 63 31 true) 0x00E0).pixel 63 31 = false := by decide
/-- L2-DSP-7: a cell turned off sets VF, its neighbour turns on. -/
theorem test_drw_collision :
    let s := run (((State.reset.writeByte 0x300 0xC0).setI 0x300).setPixel 0 0 true) 0xD011
    s.pixel 0 0 = false ∧ s.pixel 1 0 = true ∧ s.reg 0xF = 0x01 := by decide
/-- L2-DSP-3 and L2-DSP-10: the right edge wraps, VF is latched as coordinate. -/
theorem test_drw_wraps_and_latches :
    let s := run (((State.reset.writeByte 0x300 0xFF).setI 0x300).setReg 0xF 60) 0xDF01
    s.pixel 60 0 = true ∧ s.pixel 3 0 = true ∧ s.pixel 4 0 = false ∧ s.reg 0xF = 0x00 := by
  decide
/-- L2-CF-1. -/
theorem test_jp : (run State.reset 0x1ABC).pc = 0xABC := by decide
/-- L2-CF-14. -/
theorem test_jpV0 : (run (State.reset.setReg 0 0xFF) 0xBFFF).pc = 0x10FE := by decide
/-- L2-CF-4: the advance wraps at 0xFFFE, so 0x0000 is pushed. -/
theorem test_call_pushes : (run (State.reset.setPc 0xFFFE) 0x2400).stackEntry 0 = 0x0000 ∧
    (run (State.reset.setPc 0xFFFE) 0x2400).sp = 1 ∧
    (run (State.reset.setPc 0xFFFE) 0x2400).pc = 0x400 := by decide
/-- L2-FLT-1: the 17th call faults, precise, without a tick. -/
theorem test_call_overflow :
    let s := ({ State.reset with sp := 16, dt := 5 }).withFetchWord 16 0x2300
    afterAct .step s = { s with fault := 1, faultPc := 0x200 } := by decide
/-- L2-CF-3: the popped entry keeps its value. -/
theorem test_ret :
    let s := run (State.reset.push 0x0202) 0x00EE
    s.sp = 0 ∧ s.pc = 0x0202 ∧ s.stackEntry 0 = 0x0202 := by decide
/-- L2-FLT-2, L2-FLT-3: underflow, and the halted step. -/
theorem test_ret_underflow_halts :
    let s := (State.reset.setSt 3).withFetchWord 16 0x00EE
    let t := afterAct .step s
    t = { s with fault := 2, faultPc := 0x200 } ∧ afterAct .step t = t := by decide
/-- L2-CF-5, L2-CF-6. -/
theorem test_seK : (run (State.reset.setReg 3 0x42) 0x3342).pc = 0x204 ∧
    (run (State.reset.setReg 3 0x42) 0x3343).pc = 0x202 := by decide
/-- L2-CF-7, L2-CF-8. -/
theorem test_sneK : (run (State.reset.setReg 3 0x42) 0x4342).pc = 0x202 ∧
    (run (State.reset.setReg 3 0x42) 0x4343).pc = 0x204 := by decide
/-- L2-CF-10. -/
theorem test_seR : (run (with12 7 7) 0x5127).pc = 0x204 := by decide
/-- L2-CF-11, L2-CF-12. -/
theorem test_sneR : (run (with12 1 2) 0x9120).pc = 0x204 ∧ (run State.reset 0x9120).pc = 0x202 := by
  decide
/-- The reset state with keys 3, 7 and 9 pressed. -/
def keyed : State :=
  { State.reset with keys := ((State.reset.keys.set 3 true).set 7 true).set 9 true }
/-- L2-KEY-5. -/
theorem test_skp_low_nibble : (run (keyed.setReg 1 0x13) 0xE19E).pc = 0x204 := by decide
/-- L2-KEY-3, L2-KEY-4. -/
theorem test_sknp : (run (keyed.setReg 1 3) 0xE1A1).pc = 0x202 ∧
    (run (keyed.setReg 1 4) 0xE1A1).pc = 0x204 := by decide
/-- L2-KEY-12's rule: the lowest pressed key. -/
theorem test_ldVK : (run keyed 0xF10A).reg 1 = 0x03 ∧ (run keyed 0xF10A).pc = 0x202 := by decide
/-- L2-KEY-11: the wait restores `pc` and the timers tick. -/
theorem test_ldVK_waits : (run ((with12 0x77 0).setDt 2) 0xF10A).pc = 0x200 ∧
    (run ((with12 0x77 0).setDt 2) 0xF10A).reg 1 = 0x77 ∧
    (run ((with12 0x77 0).setDt 2) 0xF10A).dt = 1 := by decide
/-- L2-KEY-6. -/
theorem test_ldVDt : (run (State.reset.setDt 3) 0xF107).reg 1 = 3 ∧
    (run (State.reset.setDt 3) 0xF107).dt = 2 := by decide
/-- L2-KEY-7. -/
theorem test_ldDtV : (run (with12 5 0) 0xF115).dt = 4 := by decide
/-- L2-KEY-9, L2-KEY-10. -/
theorem test_ldStV : (run (with12 1 0) 0xF118).st = 0 ∧ (run (with12 2 0) 0xF118).st = 1 := by decide
/-- The step of a no-op (L2-DEC): `pc` + 2 and one tick. -/
theorem test_nop : (run (State.reset.setDt 1) 0x8008).pc = 0x202 ∧
    (run (State.reset.setDt 1) 0x8008).dt = 0 := by decide
/-- L2-CYC-4: the second byte of a fetch at 0xFFFF comes from 0x000. -/
theorem test_fetch_wraps :
    let s := afterAct .step (((State.reset.setPc 0xFFFF).writeByte 0xFFF 0x60).writeByte 0 0x07)
    s.reg 0 = 0x07 ∧ s.pc = 0x0001 := by decide
/-- L2-CYC-9, L2-CYC-10: decoupled timers. -/
def decoupled : State := { State.reset with config := ⟨true, defaultFont⟩, dt := 5 }
theorem test_decoupled : (run decoupled 0x8008).dt = 5 ∧ (afterAct .timerTick decoupled).dt = 4 := by
  decide
/-- L2-MEM-6: glyph 5, and the reset of a halted core (L2-FLT-4). -/
theorem test_host_reset : (afterAct .reset { State.reset with fault := 1, sp := 16, pc := 0x300 }) =
    State.reset ∧ State.reset.readByte 0x069 = 0xF0 ∧ State.reset.readByte 0x06C = 0x10 := by
  decide
/-- L2-MEM-1. -/
theorem test_load : (afterAct (.load [0x60, 0x05, 0x70, 0x03]) State.reset).mem =
    [(0x200, 0x60), (0x201, 0x05), (0x202, 0x70), (0x203, 0x03)] := by decide
/-- Writing what an unlisted address reads as lists nothing. -/
theorem test_memory_canonical : (State.reset.writeByte 0x050 0xF0).mem = [] ∧
    ((State.reset.writeByte 0x300 1).writeByte 0x1300 0).mem = [] := by decide

/-! ## Witnesses: a state and operands that meet each statement's hypotheses -/

theorem witness_DecodeOfEncode : (Instr.drw 0xF 0xF 0xF).wf = true ∧ (Instr.nop0 0xF).wf = true ∧
    (Instr.nop8 0x8).wf = true ∧ (Instr.nopE 0x0).wf = true ∧ (Instr.nopF 0xFF).wf = true := by decide
theorem witness_DecodeFollowsTheOpcodeMap : (⟨0x8004, 0xF00F⟩ : OpcodeRow) ∈ opcodeMap ∧
    OpcodeRow.hits ⟨0x8004, 0xF00F⟩ 0x8124 = true ∧
    (∀ row ∈ opcodeMap, row.hits 0x0123 = false) ∧ (∀ row ∈ opcodeMap, row.hits 0x800F = false) ∧
    (∀ row ∈ opcodeMap, row.hits 0xE300 = false) ∧ (∀ row ∈ opcodeMap, row.hits 0xF5FF = false) := by
  decide
theorem witness_DecodingDependsOnFamilyAndKeyOnly :
    (0x0120 : Word) &&& (decode 0x0120).usedBits = 0x0FF0 &&& (decode 0x0120).usedBits ∧
    fieldF 0x8124 = fieldF 0x8FF4 ∧ fieldN 0x8124 = fieldN 0x8FF4 ∧
    fieldF 0xF10A = fieldF 0xFF0A ∧ fieldKK 0xF10A = fieldKK 0xFF0A := by decide
theorem witness_CanonicalMemories : Memory.wf defaultFont [(0x000, 1), (0x050, 0), (0xFFF, 2)] = true ∧
    Memory.wf defaultFont [] = true := by decide
/-- Running, and the word there decodes: coupled without a fault, faulting, and decoupled. -/
theorem witness_StepRunsTheDecodedInstruction :
    (State.reset.fault = 0 ∧
      decode (State.reset.readByte State.reset.pc.toNat ++
        State.reset.readByte (State.reset.pc.toNat + 1)) = .cls ∧
      exec .cls { State.reset with pc := State.reset.pc + 2 } =
        .next { State.reset with pc := 0x202 } ∧
      State.reset.config.timerDecoupled = false) ∧
    exec .ret { State.reset with pc := 0x202 } =
      .next { State.reset with fault := 2, faultPc := 0x200 } ∧
    decoupled.config.timerDecoupled = true ∧
    ({ State.reset with fault := 1 } : State).fault ≠ 0 := ⟨⟨rfl, by decide, rfl, rfl⟩, rfl, rfl, by decide⟩
theorem witness_TimersCountDownOncePerStep : State.reset.fault = 0 ∧
    State.reset.config.timerDecoupled = false ∧ (afterAct .step State.reset).fault = 0 ∧
    decode State.reset.fetchWord = .cls := by decide
theorem witness_UnmatchedKeys :
    (State.reset.withFetchWord 16 0x8008).fault = 0 ∧
    ({ State.reset with sp := 1 } : State).fault = 0 ∧ ({ State.reset with sp := 1 } : State).sp ≠ 0 ∧
    ({ State.reset with sp := 15 } : State).sp ≠ 16 ∧ (decoupled.withFetchWord 16 0x8008).fault = 0 ∧
    (∀ row ∈ opcodeMap, row.hits (State.reset.withFetchWord 16 0x8008).fetchWord = false) ∧
    (∀ row ∈ opcodeMap, row.hits (decoupled.withFetchWord 16 0x8008).fetchWord = false) := by decide
theorem witness_NoOps : Instr.nopF 0xFF ∈ [Instr.nop0 3, .nop8 3, .nopE 3, .nopF 0xFF] := by decide
theorem witness_Legal : State.reset.Legal :=
  ⟨State.wf_resetWith _ _, by decide, fun _ => rfl, by decide, by decide⟩
/-- A halted legal state. -/
theorem witness_Legal_halted : ({ State.reset with fault := 2, faultPc := 0x200 } : State).Legal :=
  ⟨State.wf_resetWith defaultConfig 0, by decide, by decide, by decide, by decide⟩
/-- A cell covered and on, a cell not covered. -/
theorem witness_Draw : (State.reset.setI 0x050).spriteCovers 0 0 5 3 4 ∧
    ¬ (State.reset.setI 0x050).spriteCovers 0 0 0 3 4 ∧
    ((State.reset.setI 0x050).setPixel 3 4 true).pixel 3 4 = true ∧ (0 : Reg) ≠ 0xF :=
  ⟨⟨4, 3, by decide, by decide, by decide, by decide, by decide⟩,
    fun ⟨_, _, h, _⟩ => absurd h (by omega), by decide, by decide⟩
/-- Entry 15 on top, entry 0 on top, none. -/
theorem witness_Return : ({ State.reset with sp := 16 } : State).sp.val = (15 : Reg).val + 1 ∧
    ({ State.reset with sp := 1 } : State).sp.val = (0 : Reg).val + 1 ∧ State.reset.sp = 0 := by decide
/-- Room for the first and for the last entry, and none. -/
theorem witness_Call : State.reset.sp.val = (0 : Reg).val ∧
    ({ State.reset with sp := 15 } : State).sp.val = (15 : Reg).val ∧
    ({ State.reset with sp := 16 } : State).sp = 16 := by decide
theorem witness_StackFaults :
    let s : State := ({ State.reset with sp := 16 } : State).withFetchWord 16 0x2300
    let r : State := State.reset.withFetchWord 16 0x00EE
    s.fault = 0 ∧ decode s.fetchWord = .call 0x300 ∧ s.sp = 16 ∧
    r.fault = 0 ∧ decode r.fetchWord = .ret ∧ r.sp = 0 := by decide
theorem witness_NothingElseRaisesAFault :
    let r : State := State.reset.withFetchWord 16 0x00EE
    r.fault = 0 ∧ (afterAct .step r).fault ≠ 0 := by decide
theorem witness_ReturnAfterCall : State.reset.sp ≠ 16 ∧
    exec (.call 0x400) State.reset = .next ((State.reset.push 0x200).setPc 0x400) ∧
    State.same ((State.reset.push 0x200).setPc 0x400) (State.reset.push 0x200) .stack :=
  ⟨by decide, rfl, rfl, fun _ => rfl⟩
theorem witness_RegistersChange : exec (.addR 1 2) State.reset =
      .next (State.reset.writeFlagThenReg 1 0 0) ∧
    (Instr.addR 1 2).names 3 = false ∧ ¬ ((3 : Reg) = 0xF ∧ (Instr.addR 1 2).setsFlag = true) ∧
    exec (.ldK 1 7) State.reset = .next (State.reset.setReg 1 7) ∧
    (Instr.ldK 1 7).names 0xF = false ∧ ¬ ((0xF : Reg) = 0xF ∧ (Instr.ldK 1 7).setsFlag = true) :=
  ⟨rfl, by decide, by decide, rfl, by decide, by decide⟩
theorem witness_LoadAfterStore : exec (.stRegs 0xF) State.reset = .next (State.reset.storeRegs 16) ∧
    State.same (State.reset.storeRegs 16) ((State.reset.storeRegs 16).setReg 0 9) .mem ∧
    ((State.reset.storeRegs 16).setReg 0 9).I = State.reset.I := ⟨rfl, fun _ => rfl, by decide⟩
theorem witness_KeySkips : (3 : Reg).val = ((State.reset.setReg 1 0x13).reg 1).toNat % 16 ∧
    keyed.key 3 = true ∧ keyed.key 4 = false := by decide
theorem witness_KeyWait : (keyed.key 3 = true ∧ ∀ j, j < (3 : Reg) → keyed.key j = false) ∧
    ∀ k, State.reset.key k = false := by decide
theorem witness_KeyWait_step :
    let s := State.reset.withFetchWord 16 0xF10A
    let d := decoupled.withFetchWord 16 0xF10A
    s.fault = 0 ∧ decode s.fetchWord = .ldVK 1 ∧ (∀ k, s.key k = false) ∧
    s.config.timerDecoupled = false ∧ d.fault = 0 ∧ decode d.fetchWord = .ldVK 1 ∧
    (∀ k, d.key k = false) ∧ d.config.timerDecoupled = true := by decide
theorem witness_TimerWrite :
    decode (State.reset.withFetchWord 16 0xF115).fetchWord = .ldDtV 1 ∧
    decode (State.reset.withFetchWord 16 0xF118).fetchWord = .ldStV 1 ∧
    decode (State.reset.withFetchWord 16 0xF107).fetchWord = .ldVDt 1 ∧
    (State.reset.withFetchWord 16 0xF115).fault = 0 ∧
    (State.reset.withFetchWord 16 0xF118).config.timerDecoupled = false ∧
    decode (decoupled.withFetchWord 16 0xF115).fetchWord = .ldDtV 1 ∧
    decode (decoupled.withFetchWord 16 0xF118).fetchWord = .ldStV 1 ∧
    decode (decoupled.withFetchWord 16 0xF107).fetchWord = .ldVDt 1 := by decide
theorem witness_StepsNeverWriteTheKeypad : step State.reset = .next (afterAct .step State.reset) ∧
    decode State.reset.fetchWord ≠ .rnd 0 0 := ⟨rfl, by decide⟩
theorem witness_OnlyKeyInstructions : (Instr.addR 1 2).readsKeys = false ∧
    exec (.addR 1 2) State.reset = .next (State.reset.writeFlagThenReg 1 0 0) := ⟨rfl, rfl⟩
theorem witness_SoundIsSeen : (State.reset.withFetchWord 16 0xF118).fault = 0 ∧
    (State.reset.withFetchWord 16 0xF118).config.timerDecoupled = false ∧
    decode (State.reset.withFetchWord 16 0xF118).fetchWord = .ldStV 1 := by decide
/-- The operands of a double draw, a destination that is not VF and one that is, registers up to and above `x`. -/
theorem witness_operands : (0 : Reg) ≠ 0xF ∧ (14 : Reg) ≠ 0xF ∧ (0xF : Reg) ≤ 0xF ∧ (0 : Reg) < 0xF := by
  decide
theorem witness_SoundTimer : exec (.ldStV 0) State.reset = .next (State.reset.setSt 0) := rfl
theorem witness_Load : ([] : List Byte).length ≤ 3584 ∧
    (List.replicate 3584 (0x07 : Byte)).length ≤ 3584 ∧
    3584 < (List.replicate 3585 (0x07 : Byte)).length := by
  simp only [List.length_replicate, List.length_nil]; decide
theorem witness_HostTick : decoupled.config.timerDecoupled = true ∧
    State.reset.config.timerDecoupled = false := by decide
theorem witness_OnlyReset : ({ State.reset with fault := 1 } : State).fault ≠ 0 ∧
    HostAction.reset ∉ [HostAction.step, .load [0], .timerTick] := by decide

end Sys2Proof.Tests
end

section
namespace Sys2Proof.Machine

/-- Reads take any address and reduce it (00_scope.md R12). -/
@[simp] theorem State.readByte_mod (s : State) (a : Nat) :
    s.readByte (a % 4096) = s.readByte a := by
  unfold State.readByte
  rw [Nat.mod_mod]

/-- Settles O6, by the law of a read after a write and the reduction of the read's address. -/
theorem readGivesTheByteLastWritten : Obligations.ReadGivesTheByteLastWritten :=
  fun s a b v => ⟨s.readByte_writeByte a b v, (s.readByte_mod b).symm⟩

end Sys2Proof.Machine
end

section
/-! The reset table and the keypad write (10_state.md R35, R42). -/

namespace Sys2Proof.Machine

theorem Memory.background_font (font : Vector Byte 80) (k : Nat) (hk : k < 80) :
    Memory.background font (0x050 + k) = font[k] := by
  rw [Memory.background, dif_pos (by omega)]
  simp

theorem Memory.background_outside_font (font : Vector Byte 80) (a : Nat)
    (ha : a < 0x050 ∨ 0x0A0 ≤ a) : Memory.background font a = 0x00 :=
  dif_neg (by omega)

/-- After reset every address reads as the reset contents (10_state.md R37). -/
theorem State.readByte_resetWith (c : Config) (n a : Nat) :
    (State.resetWith c n).readByte a = Memory.background c.fontData (a % 4096) := rfl

/-- The reset table holds for every choice of the parameters and of the draws taken. -/
theorem State.atReset_resetWith (c : Config) (n : Nat) :
    (State.resetWith c n).AtReset c.fontData where
  regs r := by simp [State.reg, State.resetWith]
  pc := rfl
  index := rfl
  sp := rfl
  stack k := by simp [State.stackEntry, State.resetWith]
  timers := ⟨rfl, rfl⟩
  font k hk := by
    rw [State.readByte_resetWith, Nat.mod_eq_of_lt (by omega), Memory.background_font]
  zeros a ha hout := by
    rw [State.readByte_resetWith, Nat.mod_eq_of_lt ha, Memory.background_outside_font _ _ hout]
  keys k := by simp [State.key, State.resetWith]
  screen c r := by simp [State.pixel, State.resetWith]
  fault := rfl
  faultPc := rfl

/-- Settles O14: creation and the host's reset are both `resetWith`, at which the table holds. -/
theorem resetGivesEveryItemItsValue : Obligations.ResetGivesEveryItemItsValue :=
  ⟨State.atReset_resetWith defaultConfig 0, fun s =>
    ⟨_, rfl, State.atReset_resetWith s.config s.draws, rfl⟩⟩

/-- Settles O51: the write replaces the field behind the keys. -/
theorem keypadWriteSetsTheKeys : Obligations.KeypadWriteSetsTheKeys := by
  refine fun s ks => ⟨{ s with keys := ks }, rfl, fun _ => rfl, ?_⟩
  apply State.sameBut_of_fields <;> simp

end Sys2Proof.Machine
end

section
/-! Canonical memories are determined by their reads (10_state.md R37; log 7). -/

namespace Sys2Proof.Machine

/-- A canonical memory lists an address exactly when its byte differs from the reset contents. -/
theorem Memory.mem_iff_read (font : Vector Byte 80) (m : Memory) (hm : m.wf font = true) (a : Nat)
    (v : Byte) :
    (a, v) ∈ m ↔ a < 4096 ∧ m.read font a = v ∧ v ≠ Memory.background font a := by
  obtain ⟨hrise, hcell⟩ := (Memory.wf_iff font m).1 hm
  rw [← Memory.lookup_of_mem m hrise a v]
  constructor
  · intro hv
    obtain ⟨ha, hne⟩ := hcell _ ((Memory.lookup_of_mem m hrise a v).1 hv)
    exact ⟨ha, by rw [Memory.read, hv, Option.getD_some], hne⟩
  · rintro ⟨-, hread, hne⟩
    cases hl : m.lookup a with
    | none => rw [Memory.read, hl, Option.getD_none] at hread; exact absurd hread.symm hne
    | some w => rw [Memory.read, hl, Option.getD_some] at hread; rw [hread]

/-- Settles O7: both memories have the same entries, and the rising order fixes their places. -/
theorem canonicalMemoriesThatReadAlikeAreEqual :
    Obligations.CanonicalMemoriesThatReadAlikeAreEqual := by
  intro font m m' hm hm' hread
  have hsame : ∀ c : Host.Cell, c ∈ m ↔ c ∈ m' := by
    rintro ⟨a, v⟩
    rw [Memory.mem_iff_read font m hm, Memory.mem_iff_read font m' hm']
    exact and_congr_right fun ha => by rw [hread a ha]
  have : Std.Irrefl fun c d : Host.Cell => c.1 < d.1 := ⟨fun c => Nat.lt_irrefl c.1⟩
  have : Std.Antisymm fun c d : Host.Cell => c.1 < d.1 :=
    ⟨fun _ _ h h' => absurd h' (Nat.lt_asymm h)⟩
  exact ((Memory.wf_iff font m).1 hm).1.eq_of_mem_iff ((Memory.wf_iff font m').1 hm').1 hsame

end Sys2Proof.Machine
end

section
/-! What each instruction leaves unchanged (10_state.md R22 to R39, 20_memory.md R51). -/

namespace Sys2Proof.Machine

/-- What is shown of the one next state holds of every next state. -/
theorem Result.holds_of_next {r : Result} {P : State → Prop} {t : State}
    (h : ∃ u, r = .next u ∧ P u) (ht : r = .next t) : P t := by
  obtain ⟨u, hu, hP⟩ := h
  cases hu.symm.trans ht
  exact hP

/-- `RET` raises on an empty stack and pops otherwise (42_control_flow.md R140). -/
theorem exec_ret_cases (s : State) :
    (s.sp = 0 ∧ exec .ret s = .next (s.raise .underflow)) ∨
    (s.sp ≠ 0 ∧ exec .ret s = .next s.popToPc) := by
  by_cases h : s.sp = 0
  · exact .inl ⟨h, if_pos h⟩
  · exact .inr ⟨h, if_neg h⟩

/-- `CALL` raises on a full stack and otherwise pushes and jumps (42_control_flow.md R142). -/
theorem exec_call_cases (nnn : BitVec 12) (s : State) :
    (s.sp = 16 ∧ exec (.call nnn) s = .next (s.raise .overflow)) ∨
    (s.sp ≠ 16 ∧ exec (.call nnn) s = .next ((s.push s.pc).setPc (zextAddr nnn))) := by
  by_cases h : s.sp = 16
  · exact .inl ⟨h, if_pos h⟩
  · exact .inr ⟨h, if_neg h⟩

/-- `LD Vx, K` takes the lowest key or goes back to its own address (45_timers_keypad.md R214). -/
theorem exec_ldVK_cases (x : Reg) (s : State) :
    (∃ k, exec (.ldVK x) s = .next (s.setReg x (byteOfReg k))) ∨
    exec (.ldVK x) s = .next (s.setPc (s.pc - 2)) := by
  simp only [exec, execLdVK]
  cases s.lowestKey with
  | some k => exact .inl ⟨k, rfl⟩
  | none => exact .inr rfl

/-- Settles O45: one frame law per operation, instruction by instruction. -/
theorem everyInstructionCompletesAndWritesOnlyItsParts :
    Obligations.EveryInstructionCompletesAndWritesOnlyItsParts := by
  intro i s
  cases i with
  | cls => exact ⟨_, rfl, s.sameBut_clearScreen⟩
  | ret =>
    rcases exec_ret_cases s with ⟨-, h⟩ | ⟨-, h⟩
    · exact ⟨_, h, State.sameBut_mono (s.sameBut_raise _) (by simp [Instr.writes])⟩
    · exact ⟨_, h, State.sameBut_mono s.sameBut_popToPc (by simp [Instr.writes])⟩
  | call nnn =>
    rcases exec_call_cases nnn s with ⟨-, h⟩ | ⟨-, h⟩
    · exact ⟨_, h, State.sameBut_mono (s.sameBut_raise _) (by simp [Instr.writes])⟩
    · exact ⟨_, h, State.sameBut_trans
        (State.sameBut_mono (s.sameBut_push _) (by simp [Instr.writes]))
        (State.sameBut_mono (State.sameBut_setPc _ _) (by simp [Instr.writes]))⟩
  | jp | jpV0 => exact ⟨_, rfl, s.sameBut_setPc _⟩
  | seK | sneK | seR | sneR | skp | sknp => exact ⟨_, rfl, s.sameBut_skipIf _⟩
  | ldK | addK | ldR | orR | andR | xorR | ldVDt => exact ⟨_, rfl, s.sameBut_setReg _ _⟩
  | addR | sub | shr | subn | shl => exact ⟨_, rfl, s.sameBut_writeFlagThenReg _ _ _⟩
  | rnd =>
    exact ⟨_, rfl, State.sameBut_trans
      (State.sameBut_mono s.sameBut_takeDraw (by simp [Instr.writes]))
      (State.sameBut_mono (State.sameBut_setReg _ _ _) (by simp [Instr.writes]))⟩
  | drw =>
    exact ⟨_, rfl, State.sameBut_trans
      (State.sameBut_mono (s.sameBut_setReg _ _) (by simp [Instr.writes]))
      (State.sameBut_drawRows _ _ _ _)⟩
  | ldI | addI | ldF => exact ⟨_, rfl, s.sameBut_setI _⟩
  | ldVK x =>
    rcases exec_ldVK_cases x s with ⟨k, h⟩ | h
    · exact ⟨_, h, State.sameBut_mono (s.sameBut_setReg _ _) (by simp [Instr.writes])⟩
    · exact ⟨_, h, State.sameBut_mono (s.sameBut_setPc _) (by simp [Instr.writes])⟩
  | ldDtV => exact ⟨_, rfl, s.sameBut_setDt _⟩
  | ldStV => exact ⟨_, rfl, s.sameBut_setSt _⟩
  | ldB =>
    exact ⟨_, rfl, State.sameBut_trans
      (State.sameBut_trans (s.sameBut_writeByte _ _) (State.sameBut_writeByte _ _ _))
      (State.sameBut_writeByte _ _ _)⟩
  | stRegs => exact ⟨_, rfl, s.sameBut_storeRegs _⟩
  | ldRegs => exact ⟨_, rfl, s.sameBut_loadRegs _⟩
  | nop0 | nop8 | nopE | nopF => exact ⟨_, rfl, s.sameBut_refl _⟩

/-- The frame of an instruction, from the state it answers. -/
theorem exec_sameBut {i : Instr} {s t : State} (h : exec i s = .next t) : s.sameBut i.writes t :=
  Result.holds_of_next (everyInstructionCompletesAndWritesOnlyItsParts i s) h

/-- Settles O34: an instruction that may write registers writes its destination, and VF when it
sets the flag; the frame covers every other instruction. -/
theorem registersChangeOnlyWhereNamedOrFlagged :
    Obligations.RegistersChangeOnlyWhereNamedOrFlagged := by
  intro i s t r h hname hflag
  by_cases hregs : .regs ∈ i.writes
  case neg => exact exec_sameBut h .regs hregs r
  refine Result.holds_of_next (P := fun t => t.reg r = s.reg r) ?_ h
  cases i with
  | ldK x | addK x | ldR x | orR x | andR x | xorR x | ldVDt x =>
    have hx : r ≠ x := by simpa [Instr.names] using hname
    exact ⟨_, rfl, by rw [State.reg_setReg, if_neg hx]⟩
  | rnd x =>
    have hx : r ≠ x := by simpa [Instr.names] using hname
    exact ⟨_, rfl, by rw [State.reg_setReg, if_neg hx, State.reg_congr s.takeDraw_v]⟩
  | addR x | sub x | shr x | subn x | shl x =>
    have hx : r ≠ x := by simpa [Instr.names] using hname
    have hF : r ≠ 0xF := fun hr => hflag ⟨hr, rfl⟩
    exact ⟨_, rfl, by rw [State.reg_writeFlagThenReg, if_neg hx, if_neg hF]⟩
  | drw =>
    have hF : r ≠ 0xF := fun hr => hflag ⟨hr, rfl⟩
    exact ⟨_, rfl, by rw [State.reg_drawRows _ _ _ _ _ hF, State.reg_setReg, VF, if_neg hF]⟩
  | ldVK x =>
    have hx : r ≠ x := by simpa [Instr.names] using hname
    rcases exec_ldVK_cases x s with ⟨k, hk⟩ | hk
    · exact ⟨_, hk, by rw [State.reg_setReg, if_neg hx]⟩
    · exact ⟨_, hk, rfl⟩
  | ldRegs x =>
    have hx : ¬ r.val < x.val + 1 := by simpa [Instr.names, Nat.lt_succ_iff] using hname
    exact ⟨_, rfl, by rw [State.reg_loadRegs _ _ (by omega), if_neg hx]⟩
  | _ => simp [Instr.writes] at hregs

/-! ## What no step writes (10_state.md R35, 40_cycle.md R104) -/

@[simp] theorem Instr.keys_not_mem_writes (i : Instr) : .keys ∉ i.writes := by
  cases i <;> simp [Instr.writes]

@[simp] theorem Instr.config_not_mem_writes (i : Instr) : .config ∉ i.writes := by
  cases i <;> simp [Instr.writes]

/-- Only `RND` may take a draw (43_alu.md R173). -/
theorem Instr.draws_not_mem_writes (i : Instr) (h : ∀ x kk, i ≠ .rnd x kk) : .draws ∉ i.writes := by
  cases i with
  | rnd x kk => exact absurd rfl (h x kk)
  | _ => simp [Instr.writes]

/-- The keypad is its sixteen keys. -/
theorem State.keys_eq_of_key {s t : State} (h : ∀ k, t.key k = s.key k) : t.keys = s.keys :=
  Vector.ext fun k hk => h ⟨k, hk⟩

/-- Settles O46: the frame of the executed instruction, from the advanced state to the ended one. -/
theorem stepsNeverWriteTheKeypad : Obligations.StepsNeverWriteTheKeypad := by
  intro s t h
  rcases step_cases h with ⟨-, rfl⟩ | ⟨-, u, hu, rfl⟩
  · exact ⟨rfl, rfl, fun _ => rfl⟩
  · have frame := exec_sameBut hu
    refine ⟨?_, ?_, fun hrnd => ?_⟩
    · rw [State.endStep_keys]
      exact State.keys_eq_of_key (frame .keys (Instr.keys_not_mem_writes _))
    · rw [State.endStep_config]
      exact frame .config (Instr.config_not_mem_writes _)
    · rw [State.endStep_draws]
      exact frame .draws (Instr.draws_not_mem_writes _ hrnd)

end Sys2Proof.Machine
end

section
/-! Every step keeps the state legal (10_state.md R31, R38; 60_exceptions.md R231, R232). -/

namespace Sys2Proof.Machine

/-- A running core is legal when memory is canonical and FAULT_PC was not written. -/
theorem State.legal_of_running {s : State} (hmem : s.mem.wf s.config.fontData = true)
    (hf : s.fault = 0) (hpc : s.faultPc = 0) : s.Legal where
  memory := hmem
  code := by simp [hf]
  running _ := hpc
  overflow h := by simp [hf] at h
  underflow h := by simp [hf] at h

/-- Settles O15: the reset state runs, with its memory as reset. -/
theorem resetStateIsLegal : Obligations.ResetStateIsLegal :=
  State.legal_of_running (State.wf_resetWith _ _) rfl rfl

/-- `CALL` on a full stack halts in a legal state. -/
theorem State.legal_raise_overflow {s : State} (hmem : s.mem.wf s.config.fontData = true)
    (hsp : s.sp = 16) : (s.raise .overflow).Legal where
  memory := hmem
  code := by simp [StackFault.code]
  running h := by simp [StackFault.code] at h
  overflow _ := ⟨hsp, rfl⟩
  underflow h := by simp [StackFault.code] at h

/-- `RET` on an empty stack halts in a legal state. -/
theorem State.legal_raise_underflow {s : State} (hmem : s.mem.wf s.config.fontData = true)
    (hsp : s.sp = 0) : (s.raise .underflow).Legal where
  memory := hmem
  code := by simp [StackFault.code]
  running h := by simp [StackFault.code] at h
  overflow h := by simp [StackFault.code] at h
  underflow _ := ⟨hsp, rfl⟩

/-- Legality does not speak of the timers. -/
theorem State.legal_endStep {s : State} (h : s.Legal) : s.endStep.Legal where
  memory := by simpa using h.memory
  code := by simpa using h.code
  running := by simpa using h.running
  overflow := by simpa using h.overflow
  underflow := by simpa using h.underflow

/-- Only `RET` and `CALL` may write the fault registers (10_state.md R38). -/
theorem Instr.fault_not_mem_writes (i : Instr) (hret : i ≠ .ret) (hcall : ∀ nnn, i ≠ .call nnn) :
    .fault ∉ i.writes := by
  cases i with
  | ret => exact absurd rfl hret
  | call nnn => exact absurd rfl (hcall nnn)
  | _ => simp [Instr.writes]

/-- An instruction keeps the fault registers, or it is one of the two stack faults
(60_exceptions.md R231). -/
theorem exec_fault_cases {i : Instr} {s t : State} (h : exec i s = .next t) :
    (t.fault = s.fault ∧ t.faultPc = s.faultPc) ∨
    (s.sp = 16 ∧ (∃ nnn, i = .call nnn) ∧ t = s.raise .overflow) ∨
    (s.sp = 0 ∧ i = .ret ∧ t = s.raise .underflow) := by
  by_cases hret : i = .ret
  · subst hret
    rcases exec_ret_cases s with ⟨hsp, hr⟩ | ⟨-, hr⟩ <;> cases hr.symm.trans h
    · exact .inr (.inr ⟨hsp, rfl, rfl⟩)
    · exact .inl ⟨s.popToPc_fault, s.popToPc_faultPc⟩
  by_cases hcall : ∃ nnn, i = .call nnn
  · obtain ⟨nnn, rfl⟩ := hcall
    rcases exec_call_cases nnn s with ⟨hsp, hr⟩ | ⟨-, hr⟩ <;> cases hr.symm.trans h
    · exact .inr (.inl ⟨hsp, ⟨nnn, rfl⟩, rfl⟩)
    · exact .inl ⟨s.push_fault _, s.push_faultPc _⟩
  exact .inl (exec_sameBut h .fault
    (Instr.fault_not_mem_writes i hret fun nnn hi => hcall ⟨nnn, hi⟩))

/-- Every instruction keeps memory canonical: it leaves memory alone or writes through `writeByte`. -/
theorem exec_keeps_canonical {i : Instr} {s t : State} (h : exec i s = .next t)
    (hmem : s.mem.wf s.config.fontData = true) : t.mem.wf t.config.fontData = true := by
  refine Result.holds_of_next (P := fun t => t.mem.wf t.config.fontData = true) ?_ h
  cases i with
  | ldB => exact ⟨_, rfl, State.wf_writeByte _ _ _ (State.wf_writeByte _ _ _
      (State.wf_writeByte _ _ _ hmem))⟩
  | stRegs => exact ⟨_, rfl, State.wf_storeRegs _ _ hmem⟩
  | ret => rcases exec_ret_cases s with ⟨-, hr⟩ | ⟨-, hr⟩ <;> exact ⟨_, hr, by simpa using hmem⟩
  | call nnn =>
    rcases exec_call_cases nnn s with ⟨-, hr⟩ | ⟨-, hr⟩ <;> exact ⟨_, hr, by simpa using hmem⟩
  | ldVK x =>
    rcases exec_ldVK_cases x s with ⟨k, hr⟩ | hr <;> exact ⟨_, hr, hmem⟩
  | drw => exact ⟨_, rfl, by rw [State.drawRows_eq]; exact hmem⟩
  | ldRegs => exact ⟨_, rfl, by rw [State.loadRegs_eq]; exact hmem⟩
  | seK | sneK | seR | sneR | skp | sknp => exact ⟨_, rfl, by simpa using hmem⟩
  | _ => exact ⟨_, rfl, hmem⟩

/-- An instruction executed on a running legal core leaves a legal state. -/
theorem exec_legal {i : Instr} {s t : State} (h : exec i s = .next t)
    (hmem : s.mem.wf s.config.fontData = true) (hf : s.fault = 0) (hpc : s.faultPc = 0) :
    t.Legal := by
  rcases exec_fault_cases h with ⟨htf, htpc⟩ | ⟨hsp, -, rfl⟩ | ⟨hsp, -, rfl⟩
  · exact State.legal_of_running (exec_keeps_canonical h hmem) (htf.trans hf) (htpc.trans hpc)
  · exact State.legal_raise_overflow hmem hsp
  · exact State.legal_raise_underflow hmem hsp

/-- Settles O16: a halted core stays as it is; a running one executes a completing instruction. -/
theorem everyStepKeepsTheStateLegal : Obligations.EveryStepKeepsTheStateLegal := by
  intro s hs
  by_cases hf : s.fault = 0
  · obtain ⟨t, ht, -⟩ :=
      everyInstructionCompletesAndWritesOnlyItsParts (decode s.fetchWord) s.advancePc
    exact ⟨t.endStep, step_of_running s t hf ht,
      State.legal_endStep (exec_legal ht hs.memory hf (hs.running hf))⟩
  · exact ⟨s, step_of_halted s hf, hs⟩

end Sys2Proof.Machine
end

section
/-! Two runs that differ in the keypad and the sound timer (10_state.md R34, R35). -/

namespace Sys2Proof.Machine

/-- The state with another keypad and another sound timer: the two items that most instructions do
not read. -/
def State.withKeysSt (ks : Vector Bool 16) (b : Byte) (s : State) : State :=
  { s with keys := ks, st := b }

/-- The answer with `f` applied to its next state. -/
def Result.mapNext (f : State → State) : Result → Result
  | .next s => .next (f s)
  | .fault r => .fault r
  | .refused r => .refused r

section
variable (ks : Vector Bool 16) (b : Byte)

theorem State.skipIf_withKeysSt (s : State) (c : Bool) :
    (s.withKeysSt ks b).skipIf c = (s.skipIf c).withKeysSt ks b := by
  cases c <;> rfl

theorem State.push_withKeysSt (s : State) (a : Addr) :
    (s.withKeysSt ks b).push a = (s.push a).withKeysSt ks b := by
  by_cases h : s.sp.val < 16 <;> simp [State.push, State.withKeysSt, h]

theorem State.popToPc_withKeysSt (s : State) :
    (s.withKeysSt ks b).popToPc = s.popToPc.withKeysSt ks b := by
  by_cases h : 0 < s.sp.val <;> simp [State.popToPc, State.withKeysSt, h]

theorem State.storeRegs_withKeysSt (s : State) (n : Nat) :
    (s.withKeysSt ks b).storeRegs n = (s.storeRegs n).withKeysSt ks b := by
  induction n with
  | zero => rfl
  | succ n ih => simp only [State.storeRegs, ih]; rfl

theorem State.loadRegs_withKeysSt (s : State) (n : Nat) :
    (s.withKeysSt ks b).loadRegs n = (s.loadRegs n).withKeysSt ks b := by
  induction n with
  | zero => rfl
  | succ n ih => simp only [State.loadRegs, ih]; rfl

theorem State.flipPixel_withKeysSt (s : State) (c : Fin 64) (r : Fin 32) :
    (s.withKeysSt ks b).flipPixel c r = (s.flipPixel c r).withKeysSt ks b := by
  have hp : (s.withKeysSt ks b).pixel c r = s.pixel c r := rfl
  unfold State.flipPixel
  rw [hp]
  cases s.pixel c r <;> rfl

theorem State.drawColumns_withKeysSt (vx vy : Byte) (r : Nat) (bits : Byte) (s : State) (n : Nat) :
    State.drawColumns vx vy r bits (s.withKeysSt ks b) n =
      (State.drawColumns vx vy r bits s n).withKeysSt ks b := by
  induction n with
  | zero => rfl
  | succ c ih =>
    simp only [State.drawColumns, ih, State.flipPixel_withKeysSt]
    split <;> rfl

theorem State.drawRows_withKeysSt (vx vy : Byte) (s : State) (n : Nat) :
    State.drawRows vx vy (s.withKeysSt ks b) n = (State.drawRows vx vy s n).withKeysSt ks b := by
  induction n with
  | zero => rfl
  | succ r ih =>
    simp only [State.drawRows, ih, State.drawColumns_withKeysSt]
    rfl

theorem execRet_withKeysSt (s : State) :
    execRet (s.withKeysSt ks b) = Result.mapNext (State.withKeysSt ks b) (execRet s) := by
  have hsp : (s.withKeysSt ks b).sp = s.sp := rfl
  unfold execRet
  rw [State.popToPc_withKeysSt, hsp]
  split <;> rfl

theorem execCall_withKeysSt (nnn : BitVec 12) (s : State) :
    execCall nnn (s.withKeysSt ks b) = Result.mapNext (State.withKeysSt ks b) (execCall nnn s) := by
  have hsp : (s.withKeysSt ks b).sp = s.sp := rfl
  unfold execCall
  rw [State.push_withKeysSt, hsp]
  split <;> rfl

theorem execLdVK_withKeysSt (x : Reg) (s : State) :
    execLdVK x (s.withKeysSt s.keys b) =
      Result.mapNext (State.withKeysSt s.keys b) (execLdVK x s) := by
  have hk : (s.withKeysSt s.keys b).lowestKey = s.lowestKey := rfl
  unfold execLdVK
  rw [hk]
  cases s.lowestKey <;> rfl

/-- The two items are passed through by every instruction that does not read the keypad, or runs on
the same keypad, and does not load the sound timer. -/
theorem exec_withKeysSt (i : Instr) (s : State) (hks : i.readsKeys = true → ks = s.keys)
    (hst : .st ∉ i.writes) :
    exec i (s.withKeysSt ks b) = Result.mapNext (State.withKeysSt ks b) (exec i s) := by
  cases i with
  | ret => exact execRet_withKeysSt ks b s
  | call nnn => exact execCall_withKeysSt ks b nnn s
  | seK | sneK | seR | sneR => exact congrArg Host.Outcome.next (State.skipIf_withKeysSt ks b s _)
  | skp | sknp =>
    obtain rfl := hks rfl
    exact congrArg Host.Outcome.next (State.skipIf_withKeysSt s.keys b s _)
  | ldVK x =>
    obtain rfl := hks rfl
    exact execLdVK_withKeysSt b x s
  | drw =>
    exact congrArg Host.Outcome.next (State.drawRows_withKeysSt ks b _ _ (s.setReg VF 0x00) _)
  | stRegs => exact congrArg Host.Outcome.next (State.storeRegs_withKeysSt ks b s _)
  | ldRegs => exact congrArg Host.Outcome.next (State.loadRegs_withKeysSt ks b s _)
  | ldStV => simp [Instr.writes] at hst
  | _ => rfl

end

/-- Only `LD ST, Vx` may write the sound timer (R34). -/
theorem Instr.eq_ldStV_of_writes_st {i : Instr} (h : .st ∈ i.writes) : ∃ x, i = .ldStV x := by
  cases i with
  | ldStV x => exact ⟨x, rfl⟩
  | _ => simp [Instr.writes] at h

/-- Settles O47: `LD ST, Vx` apart, the second run has the sound timer of the first, which the
instruction keeps. -/
theorem onlyKeyInstructionsReadTheKeypad : Obligations.OnlyKeyInstructionsReadTheKeypad := by
  intro i s t ks hks h
  by_cases hst : .st ∈ i.writes
  · obtain ⟨x, rfl⟩ := Instr.eq_ldStV_of_writes_st hst
    cases h
    rfl
  · have keeps : t.st = s.st := exec_sameBut h .st hst
    have run := exec_withKeysSt ks s.st i s (by simp [hks]) hst
    rw [h] at run
    exact run.trans (by rw [← keeps]; rfl)

/-- Settles O48: `LD ST, Vx` apart, the second run has the keypad of the first, which the
instruction keeps. -/
theorem noInstructionReadsTheSoundTimer : Obligations.NoInstructionReadsTheSoundTimer := by
  intro i s t b h
  by_cases hst : .st ∈ i.writes
  · obtain ⟨x, rfl⟩ := Instr.eq_ldStV_of_writes_st hst
    exact ⟨t, h, rfl⟩
  · have keeps : t.keys = s.keys :=
      State.keys_eq_of_key (exec_sameBut h .keys (Instr.keys_not_mem_writes i))
    have run := exec_withKeysSt s.keys b i s (fun _ => rfl) hst
    rw [h] at run
    exact ⟨_, run, by rw [← keeps]; rfl⟩

end Sys2Proof.Machine
end

section
/-! The image a load writes, and the fetch of bytes just written (20_memory.md R54 to R56, R62). -/

namespace Sys2Proof.Machine

/-! ## Bytes written in a row -/

/-- Bytes written in a row, below the top of memory, leave the addresses on both sides alone. -/
theorem State.readByte_writeBytes_outside (bs : List Byte) (s : State) (a c : Nat)
    (hfit : a + bs.length ≤ 4096) (hc : c < 4096) (hout : c < a ∨ a + bs.length ≤ c) :
    (s.writeBytes a bs).readByte c = s.readByte c := by
  induction bs generalizing s a with
  | nil => rfl
  | cons b bs ih =>
    rw [List.length_cons] at hfit hout
    have hne : c % 4096 ≠ a % 4096 := by omega
    rw [State.writeBytes, ih (s.writeByte a b) (a + 1) (by omega) (by omega),
      State.readByte_writeByte, if_neg hne]

/-- Bytes written in a row, below the top of memory, stand there verbatim: none overwrites one
before it. -/
theorem State.readByte_writeBytes_inside (bs : List Byte) (s : State) (a k : Nat)
    (hfit : a + bs.length ≤ 4096) (hk : k < bs.length) :
    (s.writeBytes a bs).readByte (a + k) = bs[k] := by
  induction bs generalizing s a k with
  | nil => exact absurd hk (Nat.not_lt_zero k)
  | cons b bs ih =>
    rw [List.length_cons] at hfit hk
    rw [State.writeBytes]
    cases k with
    | zero =>
      rw [State.readByte_writeBytes_outside bs _ _ _ (by omega) (by omega) (by omega),
        State.readByte_writeByte, Nat.add_zero, if_pos rfl, List.getElem_cons_zero]
    | succ k =>
      rw [List.getElem_cons_succ, ← ih (s.writeByte a b) (a + 1) k (by omega) (by omega),
        Nat.add_right_comm, Nat.add_assoc]

/-! ## The load -/

theorem act_load_of_fits {bytes : List Byte} (s : State) (h : bytes.length ≤ 3584) :
    act (.load bytes) s = .next (s.writeBytes 0x200 bytes) :=
  if_neg (Nat.not_lt.2 h)

theorem act_load_of_too_long {bytes : List Byte} (s : State) (h : 3584 < bytes.length) :
    act (.load bytes) s = .refused .imageTooLong :=
  if_pos h

/-- A refused action changes nothing (20_memory.md R62). -/
theorem afterAct_of_refused {a : HostAction} {s : State} {r : Refusal}
    (h : act a s = .refused r) : afterAct a s = s := by
  rw [afterAct, h]

/-- Settles O49: the longest image, 3584 bytes from 0x200 on, ends at the top of memory, so no
address wraps; a longer one is refused before a byte is written. -/
theorem loadCopiesTheImageOrRefusesItWhole : Obligations.LoadCopiesTheImageOrRefusesItWhole := by
  intro bytes s
  constructor
  · intro hlen
    have hfit : 0x200 + bytes.length ≤ 4096 := by omega
    exact ⟨_, act_load_of_fits s hlen,
      fun k hk => State.readByte_writeBytes_inside bytes s 0x200 k hfit hk,
      fun a ha hout => State.readByte_writeBytes_outside bytes s 0x200 a hfit ha hout,
      s.sameBut_writeBytes 0x200 bytes⟩
  · intro hlen
    have hrefused := act_load_of_too_long s hlen
    exact ⟨hrefused, afterAct_of_refused hrefused⟩

/-! ## The fetch -/

/-- Settles O8: the addresses of the two bytes differ mod 4096, so the second write leaves the
first byte alone. -/
theorem fetchSeesTheBytesLastWritten : Obligations.FetchSeesTheBytesLastWritten := by
  intro s hi lo
  have hne : s.pc.toNat % 4096 ≠ (s.pc.toNat + 1) % 4096 := by omega
  simp only [State.fetchWord, State.writeByte_pc, State.readByte_writeByte, if_neg hne, if_true,
    wordOfBytes]

end Sys2Proof.Machine
end

section
/-! A word put together from its fields, and words under a mask (30_encoding.md R72, R73). -/

namespace Sys2Proof

/-! ## A word is its fields -/

/-- Format A: `f`, `nnn`. -/
theorem word_A {w : Word} {f : BitVec 4} (hf : fieldF w = f) :
    f ++ fieldNNN w = w := by
  rw [← hf]
  exact (BitVec.extractLsb'_append_extractLsb'_eq_extractLsb' rfl).trans BitVec.extractLsb'_eq_self

/-- Formats XK and XF: `f`, `x`, `kk`. -/
theorem word_XK {w : Word} {f : BitVec 4} (hf : fieldF w = f) :
    f ++ regBits (fieldX w) ++ fieldKK w = w := by
  have hFX : fieldF w ++ regBits (fieldX w) = w.extractLsb' 8 8 :=
    BitVec.extractLsb'_append_extractLsb'_eq_extractLsb' rfl
  rw [← hf, hFX]
  exact (BitVec.extractLsb'_append_extractLsb'_eq_extractLsb' rfl).trans BitVec.extractLsb'_eq_self

/-- Formats XYK and XYN: `f`, `x`, `y`, `n`. -/
theorem word_XYN {w : Word} {f : BitVec 4} (hf : fieldF w = f) :
    f ++ regBits (fieldX w) ++ regBits (fieldY w) ++ fieldN w = w := by
  have hFX : fieldF w ++ regBits (fieldX w) = w.extractLsb' 8 8 :=
    BitVec.extractLsb'_append_extractLsb'_eq_extractLsb' rfl
  have hFXY : w.extractLsb' 8 8 ++ regBits (fieldY w) = w.extractLsb' 4 12 :=
    BitVec.extractLsb'_append_extractLsb'_eq_extractLsb' rfl
  rw [← hf, hFX, hFXY]
  exact (BitVec.extractLsb'_append_extractLsb'_eq_extractLsb' rfl).trans BitVec.extractLsb'_eq_self

/-- Words with the same four fields are the same word. -/
theorem word_ext {w w' : Word} (hF : fieldF w = fieldF w') (hX : fieldX w = fieldX w')
    (hY : fieldY w = fieldY w') (hN : fieldN w = fieldN w') : w = w' := by
  rw [← word_XYN (w := w) rfl, ← word_XYN (w := w') rfl, hF, hX, hY, hN]

/-! ## Words that agree under a mask -/

/-- A field that lies in the mask is the same in two words that agree under the mask. -/
theorem extractLsb'_eq_of_masked {w w' m : Word} {start len : Nat} (h : w &&& m = w' &&& m)
    (hm : m.extractLsb' start len = BitVec.allOnes len) :
    w.extractLsb' start len = w'.extractLsb' start len := by
  rw [← BitVec.and_allOnes (x := w.extractLsb' start len), ← hm, ← BitVec.extractLsb'_and, h,
    BitVec.extractLsb'_and, hm, BitVec.and_allOnes]

/-- Under a mask a field of the word matters only when the mask does not drop it. -/
theorem extractLsb'_masked_eq {w w' m : Word} {start len : Nat}
    (h : w.extractLsb' start len = w'.extractLsb' start len ∨ m.extractLsb' start len = 0) :
    (w &&& m).extractLsb' start len = (w' &&& m).extractLsb' start len := by
  rw [BitVec.extractLsb'_and, BitVec.extractLsb'_and]
  rcases h with h | h
  · rw [h]
  · rw [h]; exact BitVec.and_zero.trans BitVec.and_zero.symm

/-- Two words agree under a mask when each field is the same in both or dropped by the mask. -/
theorem masked_eq {w w' m : Word} (hF : fieldF w = fieldF w')
    (hX : fieldX w = fieldX w' ∨ fieldX m = 0) (hY : fieldY w = fieldY w' ∨ fieldY m = 0)
    (hN : fieldN w = fieldN w' ∨ fieldN m = 0) : w &&& m = w' &&& m :=
  word_ext (extractLsb'_masked_eq (.inl hF))
    (congrArg BitVec.toFin (extractLsb'_masked_eq (hX.imp BitVec.toFin_inj.1 BitVec.toFin_inj.1)))
    (congrArg BitVec.toFin (extractLsb'_masked_eq (hY.imp BitVec.toFin_inj.1 BitVec.toFin_inj.1)))
    (extractLsb'_masked_eq hN)

/-- The low byte is the fields `y` and `n`. -/
theorem fieldY_eq_of_fieldKK {w w' : Word} (h : fieldKK w = fieldKK w') : fieldY w = fieldY w' := by
  have hY (v : Word) : fieldY v = ((fieldKK v).extractLsb' 4 4).toFin := by
    rw [fieldKK, BitVec.extractLsb'_extractLsb'_of_le (by decide)]; rfl
  rw [hY, hY, h]

theorem fieldN_eq_of_fieldKK {w w' : Word} (h : fieldKK w = fieldKK w') : fieldN w = fieldN w' := by
  have hN (v : Word) : fieldN v = (fieldKK v).extractLsb' 0 4 := by
    rw [fieldKK, BitVec.extractLsb'_extractLsb'_of_le (by decide)]; rfl
  rw [hN, hN, h]

section
variable {w w' : Word}

/-- The family alone, the mask of a row of a single-op family (R76). -/
theorem masked_F000_iff : w &&& 0xF000 = w' &&& 0xF000 ↔ fieldF w = fieldF w' :=
  ⟨fun h => extractLsb'_eq_of_masked h rfl, fun h => masked_eq h (.inr rfl) (.inr rfl) (.inr rfl)⟩

/-- Family and low nibble: format Z, and the key of families 0x0, 0x8 and 0xE. -/
theorem masked_F00F_iff :
    w &&& 0xF00F = w' &&& 0xF00F ↔ fieldF w = fieldF w' ∧ fieldN w = fieldN w' :=
  ⟨fun h => ⟨extractLsb'_eq_of_masked h rfl, extractLsb'_eq_of_masked h rfl⟩,
    fun ⟨hF, hN⟩ => masked_eq hF (.inr rfl) (.inr rfl) (.inl hN)⟩

/-- Family and low byte: the key of family 0xF. -/
theorem masked_F0FF_iff :
    w &&& 0xF0FF = w' &&& 0xF0FF ↔ fieldF w = fieldF w' ∧ fieldKK w = fieldKK w' :=
  ⟨fun h => ⟨extractLsb'_eq_of_masked h rfl, extractLsb'_eq_of_masked h rfl⟩,
    fun ⟨hF, hK⟩ =>
      masked_eq hF (.inr rfl) (.inl (fieldY_eq_of_fieldKK hK)) (.inl (fieldN_eq_of_fieldKK hK))⟩

/-- Format XY. -/
theorem masked_FFF0_iff :
    w &&& 0xFFF0 = w' &&& 0xFFF0 ↔
      fieldF w = fieldF w' ∧ fieldX w = fieldX w' ∧ fieldY w = fieldY w' :=
  ⟨fun h => ⟨extractLsb'_eq_of_masked h rfl, congrArg BitVec.toFin (extractLsb'_eq_of_masked h rfl),
      congrArg BitVec.toFin (extractLsb'_eq_of_masked h rfl)⟩,
    fun ⟨hF, hX, hY⟩ => masked_eq hF (.inl hX) (.inl hY) (.inr rfl)⟩

/-- Format XE. -/
theorem masked_FF0F_iff :
    w &&& 0xFF0F = w' &&& 0xFF0F ↔
      fieldF w = fieldF w' ∧ fieldX w = fieldX w' ∧ fieldN w = fieldN w' :=
  ⟨fun h => ⟨extractLsb'_eq_of_masked h rfl, congrArg BitVec.toFin (extractLsb'_eq_of_masked h rfl),
      extractLsb'_eq_of_masked h rfl⟩,
    fun ⟨hF, hX, hN⟩ => masked_eq hF (.inl hX) (.inr rfl) (.inl hN)⟩

/-- The formats that use every bit. -/
theorem masked_FFFF_iff : w &&& 0xFFFF = w' &&& 0xFFFF ↔ w = w' :=
  ⟨fun h => BitVec.and_allOnes.symm.trans (h.trans BitVec.and_allOnes), fun h => by rw [h]⟩

end

end Sys2Proof
end

section
/-! The decoder and the encoder are inverse on the bits a format uses (30_encoding.md R72 to R84). -/

namespace Sys2Proof

/-- The word is one of the instruction: the instruction is well formed, and encoding it gives every
bit of the word that its format uses (30_encoding.md R73, R75). -/
def Instr.StandsFor (i : Instr) (w : Word) : Prop :=
  i.wf = true ∧ encode i &&& i.usedBits = w &&& i.usedBits

theorem Instr.StandsFor.of_encode {i : Instr} {w : Word} (hwf : i.wf = true) (h : encode i = w) :
    i.StandsFor w :=
  ⟨hwf, by rw [h]⟩

/-! ## A key that its family does not name (R82) -/

/-- The words of a no-op of family 0x0, 0x8 or 0xE. -/
theorem masked_nop_iff {w : Word} {f n : BitVec 4} :
    (f ++ 0x00#8 ++ n) &&& 0xF00F = w &&& 0xF00F ↔ fieldF w = f ∧ fieldN w = n := by
  rw [masked_F00F_iff, fieldF_Z, fieldN_Z, eq_comm, @eq_comm _ n]

/-- The words of a no-op of family 0xF. -/
theorem masked_nopF_iff {w : Word} {f x : BitVec 4} {kk : Byte} :
    (f ++ x ++ kk) &&& 0xF0FF = w &&& 0xF0FF ↔ fieldF w = f ∧ fieldKK w = kk := by
  rw [masked_F0FF_iff, fieldF_XK, fieldKK_XK, eq_comm, @eq_comm _ kk]

theorem decodeFamily0_of_wf {n : BitVec 4} (h : (Instr.nop0 n).wf = true) :
    decodeFamily0 n = .nop0 n := by
  simp_all [Instr.wf, keys0, decodeFamily0]

theorem decodeFamily8_of_wf {n : BitVec 4} (x y : Reg) (h : (Instr.nop8 n).wf = true) :
    decodeFamily8 x y n = .nop8 n := by
  simp_all [Instr.wf, keys8, decodeFamily8]

theorem decodeFamilyE_of_wf {n : BitVec 4} (x : Reg) (h : (Instr.nopE n).wf = true) :
    decodeFamilyE x n = .nopE n := by
  simp_all [Instr.wf, keysE, decodeFamilyE]

theorem decodeFamilyF_of_wf {kk : Byte} (x : Reg) (h : (Instr.nopF kk).wf = true) :
    decodeFamilyF x kk = .nopF kk := by
  simp_all [Instr.wf, keysF, decodeFamilyF]

/-! ## From the instruction to the word -/

/-- A word of an instruction decodes to it: format by format, the used fields of the word are those
the encoder wrote. -/
theorem decode_eq_of_standsFor {i : Instr} {w : Word} (h : i.StandsFor w) : decode w = i := by
  obtain ⟨hwf, hm⟩ := h
  cases i with
  | cls | ret =>
    obtain ⟨hF, hN⟩ := masked_F00F_iff.1 hm
    simp only [decode, ← hF, ← hN]; rfl
  | jp | call | ldI | jpV0 =>
    obtain rfl := masked_FFFF_iff.1 hm
    simp only [encode, decode, fieldF_A, fieldNNN_A]; rfl
  | seK | sneK | ldK | addK | rnd | ldVDt | ldVK | ldDtV | ldStV | addI | ldF | ldB | stRegs
  | ldRegs =>
    obtain rfl := masked_FFFF_iff.1 hm
    simp only [encode, decode, fieldF_XK, fieldX_XK, fieldKK_XK]; rfl
  | skp | sknp =>
    obtain ⟨hF, hX, hN⟩ := masked_FF0F_iff.1 hm
    simp only [decode, ← hF, ← hX, ← hN, encode, fieldF_XK, fieldX_XK, fieldN_XK]; rfl
  | seR | sneR =>
    obtain ⟨hF, hX, hY⟩ := masked_FFF0_iff.1 hm
    simp only [decode, ← hF, ← hX, ← hY, encode, fieldF_XYN, fieldX_XYN, fieldY_XYN]; rfl
  | ldR | orR | andR | xorR | addR | sub | shr | subn | shl | drw =>
    obtain rfl := masked_FFFF_iff.1 hm
    simp only [encode, decode, fieldF_XYN, fieldX_XYN, fieldY_XYN, fieldN_XYN]; rfl
  | nop0 n =>
    obtain ⟨hF, rfl⟩ := masked_nop_iff.1 hm
    simp only [decode, hF]
    exact decodeFamily0_of_wf hwf
  | nop8 n =>
    obtain ⟨hF, rfl⟩ := masked_nop_iff.1 hm
    simp only [decode, hF]
    exact decodeFamily8_of_wf _ _ hwf
  | nopE n =>
    obtain ⟨hF, rfl⟩ := masked_nop_iff.1 hm
    simp only [decode, hF]
    exact decodeFamilyE_of_wf _ hwf
  | nopF kk =>
    obtain ⟨hF, rfl⟩ := masked_nopF_iff.1 hm
    simp only [decode, hF]
    exact decodeFamilyF_of_wf _ hwf

/-- Settles O1: the two bytes make the encoded word again, and it stands for the instruction. -/
theorem decodeOfEncodeGivesTheInstructionBack :
    Obligations.DecodeOfEncodeGivesTheInstructionBack := by
  intro i rest hwf
  rw [encodeBytes, List.cons_append, List.cons_append, List.nil_append, decodeBytes,
    Machine.wordOfBytes_bytes, decode_eq_of_standsFor (.of_encode hwf rfl)]

/-! ## From the word to the instruction -/

/-- Format XY: the encoder's word has the used bits of every word with these fields. -/
theorem masked_XY {w : Word} {f n : BitVec 4} (hf : fieldF w = f) :
    (f ++ regBits (fieldX w) ++ regBits (fieldY w) ++ n) &&& 0xFFF0 = w &&& 0xFFF0 :=
  masked_FFF0_iff.2
    ⟨(fieldF_XYN _ _ _ _).trans hf.symm, fieldX_XYN _ _ _ _, fieldY_XYN _ _ _ _⟩

theorem decodeFamily0_standsFor {w : Word} (hf : fieldF w = 0x0) :
    (decodeFamily0 (fieldN w)).StandsFor w := by
  fun_cases decodeFamily0 (fieldN w) with
  | case1 hn | case2 _ hn => exact ⟨rfl, masked_F00F_iff.2 ⟨hf.symm, hn.symm⟩⟩
  | case3 => exact ⟨by simp_all [Instr.wf, keys0], masked_nop_iff.2 ⟨hf, rfl⟩⟩

theorem decodeFamily8_standsFor {w : Word} (hf : fieldF w = 0x8) :
    (decodeFamily8 (fieldX w) (fieldY w) (fieldN w)).StandsFor w := by
  have hw : 0x8#4 ++ regBits (fieldX w) ++ regBits (fieldY w) ++ fieldN w = w := word_XYN hf
  fun_cases decodeFamily8 (fieldX w) (fieldY w) (fieldN w)
  case case10 => exact ⟨by simp_all [Instr.wf, keys8], masked_nop_iff.2 ⟨hf, rfl⟩⟩
  all_goals
    rename_i hn
    rw [hn] at hw
    exact .of_encode rfl hw

theorem decodeFamilyE_standsFor {w : Word} (hf : fieldF w = 0xE) :
    (decodeFamilyE (fieldX w) (fieldN w)).StandsFor w := by
  fun_cases decodeFamilyE (fieldX w) (fieldN w) with
  | case1 hn | case2 _ hn =>
    exact ⟨rfl, masked_FF0F_iff.2
      ⟨(fieldF_XK _ _ _).trans hf.symm, fieldX_XK _ _ _, (fieldN_XK _ _ _).trans hn.symm⟩⟩
  | case3 => exact ⟨by simp_all [Instr.wf, keysE], masked_nop_iff.2 ⟨hf, rfl⟩⟩

theorem decodeFamilyF_standsFor {w : Word} (hf : fieldF w = 0xF) :
    (decodeFamilyF (fieldX w) (fieldKK w)).StandsFor w := by
  have hw : 0xF#4 ++ regBits (fieldX w) ++ fieldKK w = w := word_XK hf
  fun_cases decodeFamilyF (fieldX w) (fieldKK w)
  case case10 => exact ⟨by simp_all [Instr.wf, keysF], masked_nopF_iff.2 ⟨hf, rfl⟩⟩
  all_goals
    rename_i hk
    rw [hk] at hw
    exact .of_encode rfl hw

/-- What a word decodes to stands for it: family by family, the instruction's fields are the
word's. -/
theorem decode_standsFor (w : Word) : (decode w).StandsFor w := by
  have hf {f : BitVec 4} (h : (fieldF w).toNat = f.toNat) : fieldF w = f := BitVec.eq_of_toNat_eq h
  fun_cases decode w with
  | case1 h => exact decodeFamily0_standsFor (hf h)
  -- format A, then XK, then XY
  | case2 h | case3 h | case11 h | case12 h => exact .of_encode rfl (word_A (hf h))
  | case4 h | case5 h | case7 h | case8 h | case13 h => exact .of_encode rfl (word_XK (hf h))
  | case6 h | case10 h => exact ⟨rfl, masked_XY (hf h)⟩
  | case9 h => exact decodeFamily8_standsFor (hf h)
  | case14 h => exact .of_encode rfl (word_XYN (hf h))
  | case15 h => exact decodeFamilyE_standsFor (hf h)
  | case16 =>
    have h : (fieldF w).toNat = 0xF := by have := (fieldF w).isLt; grind
    exact decodeFamilyF_standsFor (hf h)

/-- Settles O4: a decoded instruction stands for its word. -/
theorem decodedInstructionsAreWellFormedAndKeepTheirBits :
    Obligations.DecodedInstructionsAreWellFormedAndKeepTheirBits :=
  decode_standsFor

end Sys2Proof
end

section
/-! The opcode map (30_encoding.md R82, R83, R85). -/

namespace Sys2Proof

/-- The two words have the same family and, in a multi-op family, the same secondary key (R77 to
R81). -/
structure SameKey (w w' : Word) : Prop where
  family : fieldF w = fieldF w'
  low4 : fieldF w ∈ [0x0, 0x8, 0xE] → fieldN w = fieldN w'
  low8 : fieldF w = 0xF → fieldKK w = fieldKK w'

/-- The two instructions are of the same row, or the same no-op. -/
def Instr.SameKind (i j : Instr) : Prop :=
  j.row = i.row ∧ (i.row = none → j = i)

theorem decodeFamily8_sameKind (x y x' y' : Reg) (n : BitVec 4) :
    (decodeFamily8 x y n).SameKind (decodeFamily8 x' y' n) := by
  fun_cases decodeFamily8 x y n <;> simp_all [decodeFamily8, Instr.SameKind, Instr.row]

theorem decodeFamilyE_sameKind (x x' : Reg) (n : BitVec 4) :
    (decodeFamilyE x n).SameKind (decodeFamilyE x' n) := by
  fun_cases decodeFamilyE x n <;> simp_all [decodeFamilyE, Instr.SameKind, Instr.row]

theorem decodeFamilyF_sameKind (x x' : Reg) (kk : Byte) :
    (decodeFamilyF x kk).SameKind (decodeFamilyF x' kk) := by
  fun_cases decodeFamilyF x kk <;> simp_all [decodeFamilyF, Instr.SameKind, Instr.row]

/-- Family and secondary key fix the kind (R85). -/
theorem decode_sameKind {w w' : Word} (h : SameKey w w') : (decode w).SameKind (decode w') := by
  obtain ⟨hF, hN, hK⟩ := h
  have hf {f : BitVec 4} (h : (fieldF w).toNat = f.toNat) : fieldF w = f := BitVec.eq_of_toNat_eq h
  simp only [decode, ← hF]
  split
  case h_1 h => rw [hN (by simp [hf (f := 0x0) h])]; exact ⟨rfl, fun _ => rfl⟩
  case h_9 h => rw [hN (by simp [hf (f := 0x8) h])]; exact decodeFamily8_sameKind _ _ _ _ _
  case h_15 h => rw [hN (by simp [hf (f := 0xE) h])]; exact decodeFamilyE_sameKind _ _ _
  case h_16 =>
    have h : (fieldF w).toNat = 0xF := by have := (fieldF w).isLt; grind
    rw [hK (hf h)]
    exact decodeFamilyF_sameKind _ _ _
  all_goals exact ⟨rfl, nofun⟩

/-- Settles O3: a word that agrees on the used bits stands for the same instruction, and the family
with its key fixes the kind. -/
theorem decodingDependsOnFamilyAndKeyOnly : Obligations.DecodingDependsOnFamilyAndKeyOnly := by
  refine fun w w' => ⟨fun hm => ?_, fun hF hN hK => decode_sameKind ⟨hF, hN, hK⟩⟩
  obtain ⟨hwf, hbits⟩ := decode_standsFor w
  exact decode_eq_of_standsFor ⟨hwf, hbits.trans hm⟩

/-! ## Words of a row -/

theorem OpcodeRow.hits_iff {row : OpcodeRow} {w : Word} :
    row.hits w = true ↔ w &&& row.mask = row.pattern :=
  beq_iff_eq

/-- The table (R83): a row's mask is the family, with the low nibble in families 0x0, 0x8 and 0xE
and the low byte in family 0xF. -/
theorem opcodeMap_masks : ∀ row ∈ opcodeMap,
    row.mask = (if fieldF row.pattern ∈ [0x0, 0x8, 0xE] then 0xF00F
      else if fieldF row.pattern = 0xF then 0xF0FF else 0xF000) := by
  decide

/-- The match column of a row is a word of the row, and decodes to the row's instruction. -/
theorem opcodeMap_patterns : ∀ row ∈ opcodeMap,
    row.hits row.pattern = true ∧ (decode row.pattern).row = some row := by
  decide

/-- A word of a row has the family and the key of the row's match column. -/
theorem sameKey_of_hits {row : OpcodeRow} {w : Word} (hrow : row ∈ opcodeMap)
    (h : row.hits w = true) : SameKey row.pattern w := by
  have hp := OpcodeRow.hits_iff.1 (opcodeMap_patterns row hrow).1
  have hm : row.pattern &&& row.mask = w &&& row.mask := hp.trans (OpcodeRow.hits_iff.1 h).symm
  have hmask := opcodeMap_masks row hrow
  split at hmask
  case isTrue hf =>
    rw [hmask, masked_F00F_iff] at hm
    exact ⟨hm.1, fun _ => hm.2, fun hF => by simp [hF] at hf⟩
  case isFalse hf =>
    split at hmask
    case isTrue hF =>
      rw [hmask, masked_F0FF_iff] at hm
      exact ⟨hm.1, fun h => absurd h hf, fun _ => hm.2⟩
    case isFalse hF =>
      rw [hmask, masked_F000_iff] at hm
      exact ⟨hm, fun h => absurd h hf, fun h => absurd h hF⟩

theorem row_decode_of_hits {row : OpcodeRow} {w : Word} (hrow : row ∈ opcodeMap)
    (h : row.hits w = true) : (decode w).row = some row :=
  (decode_sameKind (sameKey_of_hits hrow h)).1.trans (opcodeMap_patterns row hrow).2

/-! ## Words of no row -/

theorem Instr.row_mem {i : Instr} {row : OpcodeRow} (h : i.row = some row) : row ∈ opcodeMap := by
  cases i <;> cases h <;> decide

/-- A word of an instruction is of the instruction's row. -/
theorem hits_of_standsFor {i : Instr} {row : OpcodeRow} {w : Word} (hrow : i.row = some row)
    (h : i.StandsFor w) : row.hits w = true := by
  have hp := OpcodeRow.hits_iff.1 (opcodeMap_patterns row (Instr.row_mem hrow)).1
  rw [OpcodeRow.hits_iff, ← hp]
  obtain ⟨-, hm⟩ := h
  cases i with
  | cls | ret => cases hrow; exact hm.symm
  | jp | call | ldI | jpV0 =>
    cases hrow
    obtain rfl := masked_FFFF_iff.1 hm
    exact masked_F000_iff.2 (fieldF_A _ _)
  | seK | sneK | ldK | addK | rnd =>
    cases hrow
    obtain rfl := masked_FFFF_iff.1 hm
    exact masked_F000_iff.2 (fieldF_XK _ _ _)
  | drw =>
    cases hrow
    obtain rfl := masked_FFFF_iff.1 hm
    exact masked_F000_iff.2 (fieldF_XYN _ _ _ _)
  | seR | sneR =>
    cases hrow
    obtain ⟨hF, -, -⟩ := masked_FFF0_iff.1 hm
    exact masked_F000_iff.2 (hF.symm.trans (fieldF_XYN _ _ _ _))
  | ldR | orR | andR | xorR | addR | sub | shr | subn | shl =>
    cases hrow
    obtain rfl := masked_FFFF_iff.1 hm
    exact masked_F00F_iff.2 ⟨fieldF_XYN _ _ _ _, fieldN_XYN _ _ _ _⟩
  | skp | sknp =>
    cases hrow
    obtain ⟨hF, -, hN⟩ := masked_FF0F_iff.1 hm
    exact masked_F00F_iff.2 ⟨hF.symm.trans (fieldF_XK _ _ _), hN.symm.trans (fieldN_XK _ _ _)⟩
  | ldVDt | ldVK | ldDtV | ldStV | addI | ldF | ldB | stRegs | ldRegs =>
    cases hrow
    obtain rfl := masked_FFFF_iff.1 hm
    exact masked_F0FF_iff.2 ⟨fieldF_XK _ _ _, fieldKK_XK _ _ _⟩
  | nop0 | nop8 | nopE | nopF => cases hrow

/-- A word of no row is the no-op of its family, with its key (R82). -/
theorem decode_eq_nop {w : Word} (h : ∀ row ∈ opcodeMap, row.hits w = false) :
    (fieldF w = 0x0 ∧ decode w = .nop0 (fieldN w)) ∨
    (fieldF w = 0x8 ∧ decode w = .nop8 (fieldN w)) ∨
    (fieldF w = 0xE ∧ decode w = .nopE (fieldN w)) ∨
    (fieldF w = 0xF ∧ decode w = .nopF (fieldKK w)) := by
  have hstands := decode_standsFor w
  have hnone : ∀ row, (decode w).row ≠ some row := fun row hrow =>
    absurd (hits_of_standsFor hrow hstands) (by simp [h row (Instr.row_mem hrow)])
  generalize decode w = i at hstands hnone ⊢
  obtain ⟨-, hm⟩ := hstands
  cases i with
  | nop0 n =>
    obtain ⟨hF, rfl⟩ := masked_nop_iff.1 hm
    exact .inl ⟨hF, rfl⟩
  | nop8 n =>
    obtain ⟨hF, rfl⟩ := masked_nop_iff.1 hm
    exact .inr (.inl ⟨hF, rfl⟩)
  | nopE n =>
    obtain ⟨hF, rfl⟩ := masked_nop_iff.1 hm
    exact .inr (.inr (.inl ⟨hF, rfl⟩))
  | nopF kk =>
    obtain ⟨hF, rfl⟩ := masked_nopF_iff.1 hm
    exact .inr (.inr (.inr ⟨hF, rfl⟩))
  | _ => exact absurd rfl (hnone _)

/-- Settles O2: a row is the row of what its words decode to, so two rows share no word. -/
theorem decodeFollowsTheOpcodeMap : Obligations.DecodeFollowsTheOpcodeMap := by
  refine fun w => ⟨fun row hrow row' hrow' h h' => ?_, fun row hrow => row_decode_of_hits hrow,
    decode_eq_nop⟩
  exact Option.some.inj ((row_decode_of_hits hrow h).symm.trans (row_decode_of_hits hrow' h'))

end Sys2Proof
end

section
/-! The no-op (30_encoding.md R82), and what a step can fault on (60_exceptions.md R231). -/

namespace Sys2Proof.Machine

/-- Settles O13: each no-op's arm answers the state it is given. -/
theorem noOpsCompleteAndChangeNothing : Obligations.NoOpsCompleteAndChangeNothing := by
  intro s n kk i hi
  simp only [List.mem_cons, List.not_mem_nil, or_false] at hi
  rcases hi with rfl | rfl | rfl | rfl <;> rfl

/-- A word of no row changes nothing when executed. -/
theorem exec_of_no_row {w : Word} (h : ∀ row ∈ opcodeMap, row.hits w = false) (s : State) :
    exec (decode w) s = .next s := by
  apply noOpsCompleteAndChangeNothing s (fieldN w) (fieldKK w)
  rcases decode_eq_nop h with ⟨-, hd⟩ | ⟨-, hd⟩ | ⟨-, hd⟩ | ⟨-, hd⟩ <;> simp [hd]

/-- A running core with room on the stack and an entry on it raises no fault. -/
theorem step_running_of_sp {s : State} (hf : s.fault = 0) (hempty : s.sp ≠ 0) (hfull : s.sp ≠ 16) :
    ∃ t, step s = .next t ∧ t.fault = 0 := by
  obtain ⟨t, ht, -⟩ :=
    everyInstructionCompletesAndWritesOnlyItsParts (decode s.fetchWord) s.advancePc
  refine ⟨t.endStep, step_of_running s t hf ht, ?_⟩
  rw [State.endStep_fault]
  rcases exec_fault_cases ht with ⟨hfault, -⟩ | ⟨hsp, -⟩ | ⟨hsp, -⟩
  · exact hfault.trans hf
  · exact absurd hsp hfull
  · exact absurd hsp hempty

/-- Settles O12: the word's instruction is a no-op, so the step is the advance and the tick; and a
fault needs an empty or a full stack. -/
theorem unmatchedKeysAreNoOpsAndNoEncodingTraps :
    Obligations.UnmatchedKeysAreNoOpsAndNoEncodingTraps := by
  refine fun s hf => ⟨fun hrows => ?_, step_running_of_sp hf⟩
  have hstep := step_of_running s s.advancePc hf (exec_of_no_row hrows _)
  refine ⟨exec_of_no_row hrows s, fun hd => ?_, fun hd => ?_⟩
  · rw [hstep, State.endStep_ticks s.advancePc hf hd, State.tick, tickDown_eq, tickDown_eq]
    rfl
  · rw [hstep, State.endStep_idle s.advancePc (.inr hd)]
    rfl

end Sys2Proof.Machine
end

section
/-! The step (40_cycle.md R100 to R105). -/

namespace Sys2Proof.Machine

/-- Settles O10: a halted core answers itself, and every instruction of a running one completes. -/
theorem everyStepAnswersANextState : Obligations.EveryStepAnswersANextState := by
  intro s
  by_cases hf : s.fault = 0
  · obtain ⟨t, ht, -⟩ :=
      everyInstructionCompletesAndWritesOnlyItsParts (decode s.fetchWord) s.advancePc
    exact ⟨t.endStep, step_of_running s t hf ht⟩
  · exact ⟨s, step_of_halted s hf⟩

/-- Settles O9: the two bytes are the fetched word, and the end of the step is the tick or nothing. -/
theorem stepRunsTheDecodedInstruction : Obligations.StepRunsTheDecodedInstruction := by
  refine fun s => ⟨step_of_halted s, fun hf i hi t ht => ?_⟩
  subst hi
  have hstep : step s = .next t.endStep := step_of_running s t hf ht
  refine ⟨fun ⟨hfault, hcoupled⟩ => ?_, fun hidle => ?_⟩
  · rw [hstep, State.endStep_ticks t hfault hcoupled, State.tick, tickDown_eq, tickDown_eq]
  · rw [hstep, State.endStep_idle t hidle]

end Sys2Proof.Machine
end

section
/-! Runs of host actions (40_cycle.md R101, R106, R108; 60_exceptions.md R234). -/

namespace Sys2Proof.Machine

theorem afterAct_of_next {a : HostAction} {s t : State} (h : act a s = .next t) :
    afterAct a s = t := by
  rw [afterAct, h]

theorem afterAct_step {s t : State} (h : step s = .next t) : afterAct .step s = t :=
  afterAct_of_next h

/-- A load writes the image or is refused (20_memory.md R62). -/
theorem afterAct_load_cases (bytes : List Byte) (s : State) :
    afterAct (.load bytes) s = s.writeBytes 0x200 bytes ∨ afterAct (.load bytes) s = s := by
  rcases Nat.lt_or_ge 3584 bytes.length with hlong | hfits
  · exact .inr (afterAct_of_refused (act_load_of_too_long s hlong))
  · exact .inl (afterAct_of_next (act_load_of_fits s hfits))

/-- A host tick ticks or is refused (60_exceptions.md R237). -/
theorem afterAct_timerTick_cases (s : State) :
    afterAct .timerTick s = s.tick ∨ afterAct .timerTick s = s := by
  by_cases hd : s.config.timerDecoupled = true
  · exact .inl (afterAct_of_next (if_pos hd))
  · exact .inr (afterAct_of_refused (if_neg hd))

/-- A host action that neither resets nor runs an instruction writes at most memory, keypad and
timers (40_cycle.md R106). -/
theorem afterAct_sameBut {a : HostAction} {s : State} (hstep : a = .step → s.fault ≠ 0)
    (hreset : a ≠ .reset) : s.sameBut [.mem, .keys, .dt, .st] (afterAct a s) := by
  cases a with
  | step =>
    rw [afterAct_step (step_of_halted s (hstep rfl))]
    exact s.sameBut_refl _
  | writeKeypad keys =>
    obtain ⟨t, ht, -, frame⟩ := keypadWriteSetsTheKeys s keys
    rw [afterAct_of_next ht]
    exact State.sameBut_mono frame (by simp)
  | load bytes =>
    rcases afterAct_load_cases bytes s with h | h <;> rw [h]
    · exact State.sameBut_mono (s.sameBut_writeBytes _ _) (by simp)
    · exact s.sameBut_refl _
  | reset => exact absurd rfl hreset
  | timerTick =>
    rcases afterAct_timerTick_cases s with h | h <;> rw [h]
    · exact State.sameBut_mono s.sameBut_tick (by simp)
    · exact s.sameBut_refl _

/-! ## Legal states -/

/-- Legality speaks of memory, `pc`, the stack pointer and the fault registers alone. -/
theorem State.legal_of_sameBut {s t : State} (hs : s.Legal)
    (hmem : t.mem.wf t.config.fontData = true) (frame : s.sameBut [.mem, .keys, .dt, .st] t) :
    t.Legal := by
  have hpc : t.pc = s.pc := frame .pc (by simp)
  have hsp : t.sp = s.sp := (frame .stack (by simp)).1
  obtain ⟨hfault, hfaultPc⟩ : t.fault = s.fault ∧ t.faultPc = s.faultPc := frame .fault (by simp)
  exact {
    memory := hmem
    code := by rw [hfault]; exact hs.code
    running := by rw [hfault, hfaultPc]; exact hs.running
    overflow := by rw [hfault, hsp, hpc, hfaultPc]; exact hs.overflow
    underflow := by rw [hfault, hsp, hpc, hfaultPc]; exact hs.underflow }

theorem afterAct_legal (a : HostAction) (s : State) (hs : s.Legal) : (afterAct a s).Legal := by
  cases a with
  | step =>
    obtain ⟨t, ht, hlegal⟩ := everyStepKeepsTheStateLegal s hs
    rw [afterAct_step ht]
    exact hlegal
  | reset => exact State.legal_of_running (State.wf_resetWith _ _) rfl rfl
  | writeKeypad keys =>
    exact State.legal_of_sameBut hs hs.memory (afterAct_sameBut nofun nofun)
  | load bytes =>
    refine State.legal_of_sameBut hs ?_ (afterAct_sameBut nofun nofun)
    rcases afterAct_load_cases bytes s with h | h <;> rw [h]
    · exact State.wf_writeBytes bytes s _ hs.memory
    · exact hs.memory
  | timerTick =>
    refine State.legal_of_sameBut hs ?_ (afterAct_sameBut nofun nofun)
    rcases afterAct_timerTick_cases s with h | h <;> rw [h] <;> exact hs.memory

/-- Settles O17, by induction over the run: every host action keeps the state legal. -/
theorem everyRunOfHostActionsKeepsTheStateLegal :
    Obligations.EveryRunOfHostActionsKeepsTheStateLegal :=
  runActs_induction afterAct_legal

/-! ## The halted core -/

/-- From a halted state a run without a reset writes at most memory, keypad and timers: each action
leaves FAULT as it is, so the core is still halted at the next one. -/
theorem runActs_sameBut_of_halted (as : List HostAction) (s : State) (hf : s.fault ≠ 0)
    (hreset : .reset ∉ as) : s.sameBut [.mem, .keys, .dt, .st] (runActs as s) := by
  induction as generalizing s with
  | nil => exact s.sameBut_refl _
  | cons a as ih =>
    obtain ⟨hne, hrest⟩ := List.ne_and_not_mem_of_not_mem_cons hreset
    have frame := afterAct_sameBut (s := s) (fun _ => hf) (Ne.symm hne)
    have hfault : (afterAct a s).fault = s.fault := (frame .fault (by simp)).1
    exact State.sameBut_trans frame (ih _ (hfault ▸ hf) hrest)

/-- Settles O52: the frame of the run covers FAULT, and the reset state runs. -/
theorem onlyResetLeavesTheHaltedState : Obligations.OnlyResetLeavesTheHaltedState := by
  refine fun s hf => ⟨fun as hreset => ?_, rfl⟩
  have frame := runActs_sameBut_of_halted as s hf hreset
  have hfault : (runActs as s).fault = s.fault := (frame .fault (by simp)).1
  refine ⟨frame, ?_⟩
  rw [runFaulted, State.halted, hfault, bne_iff_ne]
  exact hf

end Sys2Proof.Machine
end

section
/-! The display instructions (41_display.md R120 to R127). -/

namespace Sys2Proof.Machine

/-- Settles O19, by the laws of drawing rows from the state with VF cleared: that state has the
sprite and the screen of the one before it. -/
theorem drawFlipsTheSpritesCellsAndReportsCollision :
    Obligations.DrawFlipsTheSpritesCellsAndReportsCollision := by
  intro s x y n
  have hn : n.toNat ≤ 16 := by omega
  have cells := State.pixel_drawRows (s.reg x) (s.reg y) (s.setReg VF 0x00) n.toNat hn
  obtain ⟨hit, miss⟩ := State.vf_drawRows (s.reg x) (s.reg y) (s.setReg VF 0x00) n.toNat hn
  refine ⟨_, rfl, fun c r => (cells c r).1, fun c r => (cells c r).2, hit, fun h => ?_,
    fun r hr => ?_, exec_sameBut (i := .drw x y n) rfl⟩
  · rw [miss h, State.reg_setReg, VF, if_pos rfl]
  · rw [State.reg_drawRows _ _ _ _ _ hr, State.reg_setReg, VF, if_neg hr]

/-- The sprite's cells depend on `I` and memory alone. -/
theorem State.spriteCovers_congr {s t : State} (hI : t.I = s.I)
    (hmem : ∀ a, t.readByte a = s.readByte a) (vx vy : Byte) (n : Nat) (c : Fin 64) (r : Fin 32) :
    t.spriteCovers vx vy n c r ↔ s.spriteCovers vx vy n c r := by
  simp only [State.spriteCovers, hI, hmem]

/-- Settles O20: the second draw has the operands and the sprite of the first, so it flips the same
cells again, and finds on exactly those the first one turned on. -/
theorem drawingTwiceRestoresTheScreen : Obligations.DrawingTwiceRestoresTheScreen := by
  intro s x y n hx hy
  obtain ⟨t, ht, flipT, keepT, -, -, regT, frameT⟩ :=
    drawFlipsTheSpritesCellsAndReportsCollision s x y n
  obtain ⟨u, hu, flipU, keepU, hitU, missU, -, -⟩ :=
    drawFlipsTheSpritesCellsAndReportsCollision t x y n
  have hsame : ∀ c r, t.spriteCovers (t.reg x) (t.reg y) n.toNat c r ↔
      s.spriteCovers (s.reg x) (s.reg y) n.toNat c r := by
    rw [regT x hx, regT y hy]
    exact State.spriteCovers_congr (frameT .index (by simp)) (frameT .mem (by simp)) _ _ _
  simp only [hsame] at flipU keepU hitU missU
  have hvf : u.reg 0xF = 0x01 ↔
      ∃ c r, s.spriteCovers (s.reg x) (s.reg y) n.toNat c r ∧ t.pixel c r = true := by
    refine ⟨fun h => ?_, hitU⟩
    by_contra hnone
    exact absurd (h.symm.trans (missU hnone)) (by decide)
  refine ⟨t, u, ht, hu, fun c r => ?_, hvf, hvf.trans ?_⟩
  · by_cases hc : s.spriteCovers (s.reg x) (s.reg y) n.toNat c r
    · rw [flipU c r hc, flipT c r hc, Bool.not_not]
    · rw [keepU c r hc, keepT c r hc]
  · refine exists_congr fun c => exists_congr fun r => and_congr_right fun hc => ?_
    rw [flipT c r hc, Bool.not_eq_true']

/-- Settles O18, by the law of a cell of the cleared screen and the frame of the clearing. -/
theorem clearScreenTurnsEveryCellOff : Obligations.ClearScreenTurnsEveryCellOff :=
  fun s => ⟨_, rfl, s.pixel_clearScreen, s.sameBut_clearScreen⟩

end Sys2Proof.Machine
end

section
/-! The control-transfer instructions (42_control_flow.md R140 to R148). -/

namespace Sys2Proof.Machine

/-! ## Operands as numbers (30_encoding.md R74, 43_alu.md R174) -/

theorem toNat_zextAddr (nnn : BitVec 12) : (zextAddr nnn).toNat = nnn.toNat :=
  BitVec.toNat_setWidth_of_le (by decide)

theorem toNat_zextByte (b : Byte) : (zextByte b).toNat = b.toNat :=
  BitVec.toNat_setWidth_of_le (by decide)

/-! ## The stack, by the number of the entry pushed or popped (10_state.md R31, R32) -/

theorem State.popToPc_eq {s : State} {k : Reg} (hk : s.sp.val = k.val + 1) :
    s.popToPc = { s with sp := k.castSucc, pc := s.stackEntry k } := by
  rw [State.popToPc_of_entry s (by omega)]
  simp [State.stackEntry, Fin.ext_iff, hk]

theorem State.push_eq {s : State} {k : Reg} (a : Addr) (hk : s.sp.val = k.val) :
    s.push a = { s with stack := s.stack.set k a, sp := k.succ } := by
  rw [State.push_of_room s a (by omega)]
  simp [Fin.ext_iff, hk]

theorem State.stackEntry_push {s : State} {k : Reg} (a : Addr) (hk : s.sp.val = k.val) (j : Reg) :
    (s.push a).stackEntry j = if j = k then a else s.stackEntry j := by
  simp [State.push_eq a hk, State.stackEntry, Vector.getElem_set, Fin.ext_iff, eq_comm]

/-! ## Subroutines -/

theorem exec_ret_of_empty {s : State} (h : s.sp = 0) :
    exec .ret s = .next (s.raise .underflow) :=
  if_pos h

theorem exec_ret_of_entry {s : State} {k : Reg} (hk : s.sp.val = k.val + 1) :
    exec .ret s = .next s.popToPc :=
  if_neg (Fin.val_ne_iff.1 (by simp [hk]))

theorem exec_call_of_full {s : State} (nnn : BitVec 12) (h : s.sp = 16) :
    exec (.call nnn) s = .next (s.raise .overflow) :=
  if_pos h

theorem exec_call_of_room {s : State} (nnn : BitVec 12) (h : s.sp ≠ 16) :
    exec (.call nnn) s = .next ((s.push s.pc).setPc (zextAddr nnn)) :=
  if_neg h

/-- Settles O21, by the laws of the pop and of the raise. -/
theorem returnPopsTheTopEntryIntoPc : Obligations.ReturnPopsTheTopEntryIntoPc := by
  refine fun s => ⟨fun k hk => ?_,
    fun hempty => ⟨_, exec_ret_of_empty hempty, rfl, rfl, rfl, s.sameBut_raise _⟩⟩
  have hpop := State.popToPc_eq hk
  refine ⟨_, exec_ret_of_entry hk, ?_, ?_, fun j => ?_, s.sameBut_popToPc⟩ <;> rw [hpop] <;> rfl

/-- Settles O22, by the laws of the push and of the raise. -/
theorem callPushesTheAdvancedPcAndJumps : Obligations.CallPushesTheAdvancedPcAndJumps := by
  refine fun s nnn => ⟨fun k hk => ?_,
    fun hfull => ⟨_, exec_call_of_full nnn hfull, rfl, rfl, rfl, s.sameBut_raise _⟩⟩
  have hroom : s.sp ≠ 16 := Fin.val_ne_iff.1 (by rw [hk]; exact k.isLt.ne)
  have hentry := State.stackEntry_push s.pc hk
  refine ⟨_, exec_call_of_room nnn hroom, ?_, ?_, fun j hj => ?_, toNat_zextAddr nnn,
    State.sameBut_trans (State.sameBut_mono (s.sameBut_push _) (by simp))
      (State.sameBut_mono (State.sameBut_setPc _ _) (by simp))⟩
  · rw [State.push_eq s.pc hk]; rfl
  · exact (hentry k).trans (if_pos rfl)
  · exact (hentry j).trans (if_neg hj)

/-- Settles O25: the entry the call pushed is on top of the later state's stack. -/
theorem returnGoesBackToTheInstructionAfterTheCall :
    Obligations.ReturnGoesBackToTheInstructionAfterTheCall := by
  rintro s t u nnn hroom hcall ⟨hsp, hstack⟩
  obtain ⟨k, hk⟩ : ∃ k : Reg, s.sp.val = k.val := ⟨⟨s.sp.val, by omega⟩, rfl⟩
  obtain ⟨htsp, htop, -⟩ :=
    Result.holds_of_next ((callPushesTheAdvancedPcAndJumps s nnn).1 k hk) hcall
  obtain ⟨r, hret, hrsp, hrpc, -⟩ := (returnPopsTheTopEntryIntoPc u).1 k (by rw [hsp, htsp])
  exact ⟨r, hret, by rw [hrpc, hstack, htop], Fin.ext (hrsp.trans hk.symm)⟩

/-! ## Jumps -/

/-- Settles O26: the sum of a 12-bit and an 8-bit number is below 2^16, so it does not wrap. -/
theorem jumpsSetPc : Obligations.JumpsSetPc := by
  refine fun s nnn => ⟨⟨_, rfl, toNat_zextAddr nnn, s.sameBut_setPc _⟩,
    ⟨_, rfl, ?_, s.sameBut_setPc _⟩⟩
  rw [State.setPc_pc, BitVec.toNat_add, toNat_zextAddr, toNat_zextByte]
  omega

/-! ## Skips -/

theorem State.skipIf_beq_pc (s : State) (a b : Byte) :
    (s.skipIf (a == b)).pc = if a = b then s.pc + 2 else s.pc := by
  simp [State.skipIf_pc]

theorem State.skipIf_bne_pc (s : State) (a b : Byte) :
    (s.skipIf (a != b)).pc = if a = b then s.pc else s.pc + 2 := by
  simp [State.skipIf_pc]

/-- Settles O27, by the pc and the frame of a skip, for either condition. -/
theorem skipsAdvancePcByTwoWhenTheConditionHolds :
    Obligations.SkipsAdvancePcByTwoWhenTheConditionHolds := fun s _ _ _ =>
  ⟨⟨_, rfl, s.skipIf_beq_pc _ _, s.sameBut_skipIf _⟩,
    ⟨_, rfl, s.skipIf_bne_pc _ _, s.sameBut_skipIf _⟩,
    ⟨_, rfl, s.skipIf_beq_pc _ _, s.sameBut_skipIf _⟩,
    ⟨_, rfl, s.skipIf_bne_pc _ _, s.sameBut_skipIf _⟩⟩

end Sys2Proof.Machine
end

section
/-! The register and ALU instructions (43_alu.md R160 to R173). -/

namespace Sys2Proof.Machine

/-! ## The register written, the flag and the other registers (43_alu.md R160, R172) -/

theorem State.reg_setReg_same (s : State) (x : Reg) (b : Byte) : (s.setReg x b).reg x = b := by
  rw [State.reg_setReg, if_pos rfl]

theorem State.reg_setReg_other (s : State) (x : Reg) (b : Byte) (r : Reg) (hr : r ≠ x) :
    (s.setReg x b).reg r = s.reg r := by
  rw [State.reg_setReg, if_neg hr]

theorem State.reg_writeFlagThenReg_dest (s : State) (x : Reg) (flag result : Byte) :
    (s.writeFlagThenReg x flag result).reg x = result := by
  rw [State.reg_writeFlagThenReg, if_pos rfl]

theorem State.reg_writeFlagThenReg_flag (s : State) (x : Reg) (flag result : Byte) (hx : x ≠ 0xF) :
    (s.writeFlagThenReg x flag result).reg 0xF = flag := by
  rw [State.reg_writeFlagThenReg, if_neg hx.symm, if_pos rfl]

theorem State.reg_writeFlagThenReg_other (s : State) (x : Reg) (flag result : Byte) (r : Reg)
    (hr : r ≠ x) (hF : r ≠ 0xF) : (s.writeFlagThenReg x flag result).reg r = s.reg r := by
  rw [State.reg_writeFlagThenReg, if_neg hr, if_neg hF]

/-! ## Flags (10_state.md R23) -/

theorem flagByte_decide (p : Prop) [Decidable p] :
    flagByte (decide p) = if p then 0x01 else 0x00 := by
  simp only [flagByte_eq, decide_eq_true_eq]

theorem toNat_flagByte (b : Bool) : (flagByte b).toNat = b.toNat := by
  cases b <;> rfl

theorem toNat_lowBitFlag (b : Byte) : (lowBitFlag b).toNat = b.toNat % 2 := by
  rw [lowBitFlag, toNat_flagByte, BitVec.getLsbD, Nat.toNat_testBit, pow_zero, Nat.div_one]

/-- Bit 7 is the top bit of a byte, so nothing stands above it. -/
theorem toNat_highBitFlag (b : Byte) : (highBitFlag b).toNat = b.toNat / 128 := by
  rw [highBitFlag, toNat_flagByte, BitVec.getLsbD, Nat.toNat_testBit]
  have := b.isLt
  omega

/-! ## Results as numbers -/

theorem toNat_byte_sub (a b : Byte) : (a - b).toNat = (a.toNat + 256 - b.toNat) % 256 := by
  bv_omega

theorem toNat_byte_shr (b : Byte) : (b >>> 1).toNat = b.toNat / 2 := by
  rw [BitVec.toNat_ushiftRight, Nat.shiftRight_one]

theorem toNat_byte_shl (b : Byte) : (b <<< 1).toNat = 2 * b.toNat % 256 := by
  rw [BitVec.toNat_shiftLeft, Nat.shiftLeft_eq, pow_one, mul_comm]

/-! ## Instructions that write Vx alone -/

/-- Settles O28, by the read of the register written and of the others, and the frame. -/
theorem immediateFormsWriteVxAlone : Obligations.ImmediateFormsWriteVxAlone := by
  refine fun s x kk =>
    ⟨⟨_, rfl, s.reg_setReg_same x _, s.reg_setReg_other x _, s.sameBut_setReg x _⟩,
      ⟨_, rfl, ?_, s.reg_setReg_other x _, s.sameBut_setReg x _⟩⟩
  rw [State.reg_setReg_same, BitVec.toNat_add]

/-- Settles O29: the operations are the bitwise ones of bit vectors, read bit by bit. -/
theorem copyAndLogicWriteVxAlone : Obligations.CopyAndLogicWriteVxAlone := by
  refine fun s x y =>
    ⟨⟨_, rfl, s.reg_setReg_same x _, s.reg_setReg_other x _, s.sameBut_setReg x _⟩,
      ⟨_, rfl, fun b => ?or, s.reg_setReg_other x _, s.sameBut_setReg x _⟩,
      ⟨_, rfl, fun b => ?and, s.reg_setReg_other x _, s.sameBut_setReg x _⟩,
      ⟨_, rfl, fun b => ?xor, s.reg_setReg_other x _, s.sameBut_setReg x _⟩⟩
  case or => rw [State.reg_setReg_same, BitVec.getLsbD_or]
  case and => rw [State.reg_setReg_same, BitVec.getLsbD_and]
  case xor => rw [State.reg_setReg_same, BitVec.getLsbD_xor]

/-- Settles O33: whatever the draw, the mask clears every bit outside it. -/
theorem randomIsTheNextDrawMasked : Obligations.RandomIsTheNextDrawMasked := by
  intro s x kk
  have hdraw := s.takeDraw.reg_setReg_same x (s.nextDraw &&& kk)
  refine ⟨_, rfl, hdraw, ?_, rfl, s.takeDraw.reg_setReg_other x _,
    exec_sameBut (i := .rnd x kk) rfl⟩
  rw [hdraw, BitVec.and_assoc, BitVec.and_not_self]
  exact BitVec.and_zero

/-! ## Instructions that write Vx and the flag -/

/-- Settles O30, by the reads of the result, the carry and the other registers, and the frame. -/
theorem addRegistersWritesSumAndCarry : Obligations.AddRegistersWritesSumAndCarry := by
  refine fun s x y => ⟨_, rfl, ?_, fun hx => ?_, s.reg_writeFlagThenReg_other x _ _,
    s.sameBut_writeFlagThenReg x _ _⟩
  · rw [State.reg_writeFlagThenReg_dest, BitVec.toNat_add]
  · rw [State.reg_writeFlagThenReg_flag _ _ _ _ hx, carryFlag, flagByte_decide]

/-- Settles O31: the two differ in the order of the operands and in the comparison the flag holds. -/
theorem subtractionsWriteDifferenceAndComparison :
    Obligations.SubtractionsWriteDifferenceAndComparison := by
  refine fun s x y =>
    ⟨⟨_, rfl, ?_, fun hx => ?_, s.reg_writeFlagThenReg_other x _ _,
        s.sameBut_writeFlagThenReg x _ _⟩,
      ⟨_, rfl, ?_, fun hx => ?_, s.reg_writeFlagThenReg_other x _ _,
        s.sameBut_writeFlagThenReg x _ _⟩⟩
  · rw [State.reg_writeFlagThenReg_dest, toNat_byte_sub]
  · rw [State.reg_writeFlagThenReg_flag _ _ _ _ hx, greaterFlag, flagByte_decide]
  · rw [State.reg_writeFlagThenReg_dest, toNat_byte_sub]
  · rw [State.reg_writeFlagThenReg_flag _ _ _ _ hx, notGreaterFlag, flagByte_decide]

/-- Settles O32, by the numbers of the shifted byte and of the bit shifted out. -/
theorem shiftsWriteShiftedVyAndTheBitShiftedOut :
    Obligations.ShiftsWriteShiftedVyAndTheBitShiftedOut := by
  refine fun s x y =>
    ⟨⟨_, rfl, ?_, fun hx => ?_, s.reg_writeFlagThenReg_other x _ _,
        s.sameBut_writeFlagThenReg x _ _⟩,
      ⟨_, rfl, ?_, fun hx => ?_, s.reg_writeFlagThenReg_other x _ _,
        s.sameBut_writeFlagThenReg x _ _⟩⟩
  · rw [State.reg_writeFlagThenReg_dest, toNat_byte_shr]
  · rw [State.reg_writeFlagThenReg_flag _ _ _ _ hx, toNat_lowBitFlag]
  · rw [State.reg_writeFlagThenReg_dest, toNat_byte_shl]
  · rw [State.reg_writeFlagThenReg_flag _ _ _ _ hx, toNat_highBitFlag]

end Sys2Proof.Machine
end

section
/-! The index-register and memory instructions (44_index_memory.md R190 to R195). -/

namespace Sys2Proof.Machine

/-! ## Register sequences -/

/-- Settles O37, by the reads after `storeRegs`: a register's own address, and an address apart
from all of theirs. -/
theorem storeRegistersWritesV0ToVxAtI : Obligations.StoreRegistersWritesV0ToVxAtI := by
  refine fun s x => ⟨_, rfl, fun r hr => ?stored, fun a ha => ?other, s.sameBut_storeRegs _⟩
  case stored =>
    rw [(s.readByte_storeRegs _ x.isLt _).1 r.val (Nat.lt_succ_of_le hr) rfl, regAt_val]
  case other =>
    exact (s.readByte_storeRegs _ x.isLt a).2 fun k hk => ha k (Nat.le_of_lt_succ hk)

/-- Settles O38, by the read of a register after `loadRegs`, below and above the last one loaded. -/
theorem loadRegistersReadsV0ToVxFromI : Obligations.LoadRegistersReadsV0ToVxFromI := by
  refine fun s x => ⟨_, rfl, fun r hr => ?loaded, fun r hr => ?higher, s.sameBut_loadRegs _⟩
  case loaded => rw [s.reg_loadRegs _ x.isLt, if_pos (Nat.lt_succ_of_le hr)]
  case higher => rw [s.reg_loadRegs _ x.isLt, if_neg (Nat.not_lt_of_le hr)]

/-- Settles O39: both instructions take register `r` to be at `I + r`, and neither that byte nor `I`
changed in between. -/
theorem loadAfterStoreRestoresTheRegisters : Obligations.LoadAfterStoreRestoresTheRegisters := by
  intro s t u x ht hmem hI
  obtain ⟨hstored, -, -⟩ := Result.holds_of_next (storeRegistersWritesV0ToVxAtI s x) ht
  obtain ⟨w, hw, hloaded, -, -⟩ := loadRegistersReadsV0ToVxFromI u x
  refine ⟨w, hw, fun r hr => ?_⟩
  calc w.reg r = u.readByte (u.I.toNat + r.val) := hloaded r hr
    _ = t.readByte (s.I.toNat + r.val) := by rw [hI]; exact hmem _
    _ = s.reg r := hstored r hr

/-! ## The index register -/

/-- The glyph of the largest byte stands at 0x54B, so the address does not wrap (R192). -/
theorem toNat_glyphAddr (b : Byte) : (glyphAddr b).toNat = 0x050 + 5 * b.toNat := by
  have := b.isLt
  rw [glyphAddr, BitVec.toNat_ofNat, fontBase, Nat.mod_eq_of_lt (by omega)]

/-- Settles O35, by the number that each operand stands for, and the frame of a write of `I`. -/
theorem indexInstructionsWriteIAlone : Obligations.IndexInstructionsWriteIAlone := by
  refine fun s x nnn => ⟨⟨_, rfl, toNat_zextAddr nnn, s.sameBut_setI _⟩,
    ⟨_, rfl, ?_, s.sameBut_setI _⟩, ⟨_, rfl, toNat_glyphAddr _, s.sameBut_setI _⟩⟩
  rw [State.setI_I, BitVec.toNat_add, toNat_zextByte]

/-! ## Decimal digits -/

theorem toNat_hundreds (d : Byte) : (hundreds d).toNat = d.toNat / 100 := by
  have := d.isLt
  rw [hundreds, BitVec.toNat_ofNat, Nat.mod_eq_of_lt (by omega)]

theorem toNat_tens (d : Byte) : (tens d).toNat = d.toNat / 10 % 10 := by
  rw [tens, BitVec.toNat_ofNat, Nat.mod_eq_of_lt (by omega)]

theorem toNat_ones (d : Byte) : (ones d).toNat = d.toNat % 10 := by
  rw [ones, BitVec.toNat_ofNat, Nat.mod_eq_of_lt (by omega)]

theorem State.readByte_writeByte_same (s : State) (a : Nat) (v : Byte) :
    (s.writeByte a v).readByte a = v := by
  rw [State.readByte_writeByte, if_pos rfl]

theorem State.readByte_writeByte_other (s : State) (a b : Nat) (v : Byte)
    (h : b % 4096 ≠ a % 4096) : (s.writeByte a v).readByte b = s.readByte b := by
  rw [State.readByte_writeByte, if_neg h]

/-- The digits go to `I`, `I + 1`, `I + 2`, and no earlier write moves `I` (R193). -/
theorem exec_ldB (x : Reg) (s : State) :
    exec (.ldB x) s = .next (((s.writeByte s.I.toNat (hundreds (s.reg x))).writeByte
      (s.I.toNat + 1) (tens (s.reg x))).writeByte (s.I.toNat + 2) (ones (s.reg x))) := rfl

/-- Settles O36: the three addresses are apart mod 4096, so a later write hides no earlier digit. -/
theorem decimalDigitsAreStoredAtI : Obligations.DecimalDigitsAreStoredAtI := by
  refine fun s x => ⟨_, exec_ldB x s, ?hundreds, ?tens, ?ones, fun a ha => ?other,
    exec_sameBut (exec_ldB x s)⟩
  case hundreds =>
    rw [State.readByte_writeByte_other _ _ _ _ (by omega),
      State.readByte_writeByte_other _ _ _ _ (by omega), State.readByte_writeByte_same,
      toNat_hundreds]
  case tens =>
    rw [State.readByte_writeByte_other _ _ _ _ (by omega), State.readByte_writeByte_same,
      toNat_tens]
  case ones => rw [State.readByte_writeByte_same, toNat_ones]
  case other =>
    rw [State.readByte_writeByte_other _ _ _ _ (ha 2 (by omega)),
      State.readByte_writeByte_other _ _ _ _ (ha 1 (by omega)),
      State.readByte_writeByte_other _ s.I.toNat _ _ (ha 0 (by omega))]

end Sys2Proof.Machine
end

section
/-! The keypad and timer instructions (45_timers_keypad.md R210 to R217). -/

namespace Sys2Proof.Machine

/-! ## Key skips (45_timers_keypad.md R210 to R212) -/

theorem State.skipIf_not_pc (s : State) (c : Bool) :
    (s.skipIf (!c)).pc = if c = true then s.pc else s.pc + 2 := by
  cases c <;> rfl

/-- Settles O40, by the pc and the frame of a skip: the key tested is the one of the low nibble. -/
theorem keySkipsTestTheKeyOfTheLowNibble : Obligations.KeySkipsTestTheKeyOfTheLowNibble := by
  intro s x k hk
  obtain rfl : k = keyIndex (s.reg x) := Fin.ext hk
  exact ⟨⟨_, rfl, s.skipIf_pc _, s.sameBut_skipIf _⟩,
    ⟨_, rfl, s.skipIf_not_pc _, s.sameBut_skipIf _⟩⟩

/-! ## Timer copies (R213, R215, R216) -/

/-- Settles O42: each is one write, of a register or of a timer. -/
theorem timerInstructionsCopyBetweenVxAndATimer :
    Obligations.TimerInstructionsCopyBetweenVxAndATimer := fun s x =>
  ⟨⟨_, rfl, s.reg_setReg_same x _, s.reg_setReg_other x _, s.sameBut_setReg x _⟩,
    ⟨_, rfl, s.setDt_dt _, s.sameBut_setDt _⟩,
    ⟨_, rfl, s.setSt_st _, s.sameBut_setSt _⟩⟩

/-! ## The step of a known instruction, and its timers (40_cycle.md R100, R103) -/

theorem step_of_decode {s t : State} {i : Instr} (hf : s.fault = 0)
    (hi : decode s.fetchWord = i) (ht : exec i s.advancePc = .next t) :
    step s = .next t.endStep :=
  step_of_running s t hf (hi ▸ ht)

theorem State.endStep_timers_coupled (s : State) (hf : s.fault = 0)
    (hc : s.config.timerDecoupled = false) :
    s.endStep.dt.toNat = s.dt.toNat - 1 ∧ s.endStep.st.toNat = s.st.toNat - 1 := by
  rw [s.endStep_ticks hf hc, State.tick_dt, State.tick_st]
  exact ⟨tickDown_toNat _, tickDown_toNat _⟩

theorem State.endStep_timers_decoupled (s : State) (hd : s.config.timerDecoupled = true) :
    s.endStep.dt = s.dt ∧ s.endStep.st = s.st := by
  rw [s.endStep_idle (.inr hd)]
  exact ⟨rfl, rfl⟩

/-- Settles O43: the end of the step ticks, or keeps, the timers as the instruction left them, and
touches no register. -/
theorem timerWriteComesBeforeTheTick : Obligations.TimerWriteComesBeforeTheTick := by
  refine fun s x hf => ⟨fun hi => ?ldDtV, fun hi => ?ldStV, fun hi => ?ldVDt⟩
  case ldDtV =>
    have hcoupled := (s.advancePc.setDt (s.reg x)).endStep_timers_coupled hf
    have hdecoupled := (s.advancePc.setDt (s.reg x)).endStep_timers_decoupled
    exact ⟨_, step_of_decode hf hi rfl, fun hc => (hcoupled hc).1, hdecoupled⟩
  case ldStV =>
    have hcoupled := (s.advancePc.setSt (s.reg x)).endStep_timers_coupled hf
    have hdecoupled := (s.advancePc.setSt (s.reg x)).endStep_timers_decoupled
    exact ⟨_, step_of_decode hf hi rfl, fun hc => (hcoupled hc).2,
      fun hd => (hdecoupled hd).symm⟩
  case ldVDt =>
    have hcoupled := (s.advancePc.setReg x s.dt).endStep_timers_coupled hf
    have hdecoupled := (s.advancePc.setReg x s.dt).endStep_timers_decoupled
    have hreg : (s.advancePc.setReg x s.dt).endStep.reg x = s.dt := by
      rw [State.reg_congr (State.endStep_v _), State.reg_setReg_same]
    exact ⟨_, step_of_decode hf hi rfl, hreg, fun hc => (hcoupled hc).1,
      fun hd => (hdecoupled hd).1⟩

/-! ## The key wait (R214) -/

theorem toNat_byteOfReg (r : Reg) : (byteOfReg r).toNat = r.val := by
  have := r.isLt
  rw [byteOfReg, BitVec.toNat_ofNat, Nat.mod_eq_of_lt (by omega)]

theorem exec_ldVK_of_lowest {s : State} {k : Reg} (x : Reg) (h : s.lowestKey = some k) :
    exec (.ldVK x) s = .next (s.setReg x (byteOfReg k)) := by
  rw [exec, execLdVK, h]

theorem exec_ldVK_of_none {s : State} (x : Reg) (h : s.lowestKey = none) :
    exec (.ldVK x) s = .next (s.setPc (s.pc - 2)) := by
  rw [exec, execLdVK, h]

/-- Going back by 2 undoes the advance, mod 2^16 (10_state.md R25). -/
theorem State.setPc_advancePc_back (s : State) :
    s.advancePc.setPc (s.advancePc.pc - 2) = s := by
  rw [State.advancePc_pc, BitVec.add_sub_cancel]
  rfl

/-- A waiting step executes to the state it began in, so only its end is left (90_conflicts.md C7). -/
theorem step_of_keyWait {s : State} {x : Reg} (hf : s.fault = 0)
    (hi : decode s.fetchWord = .ldVK x) (hnone : s.lowestKey = none) :
    step s = .next s.endStep := by
  have hexec := exec_ldVK_of_none (s := s.advancePc) x hnone
  rw [State.setPc_advancePc_back] at hexec
  exact step_of_decode hf hi hexec

/-- Settles O41: the scan gives the lowest key, and a wait leaves the step nothing but its tick. -/
theorem keyWaitTakesTheLowestKeyOrRepeats : Obligations.KeyWaitTakesTheLowestKeyOrRepeats := by
  refine fun s x => ⟨fun k hk hlow => ?pressed, fun hno => ?wait⟩
  case pressed =>
    have hlowest : s.lowestKey = some k := (s.lowestKey_eq_some k).2 ⟨hk, hlow⟩
    refine ⟨_, exec_ldVK_of_lowest x hlowest, ?_, s.reg_setReg_other x _, s.sameBut_setReg x _⟩
    rw [State.reg_setReg_same, toNat_byteOfReg]
  case wait =>
    have hnone : s.lowestKey = none := s.lowestKey_eq_none.2 hno
    refine ⟨⟨_, exec_ldVK_of_none x hnone, rfl, s.sameBut_setPc _⟩, fun hf hi hc => ?_,
      fun hf hi hd => ?_⟩
    · rw [step_of_keyWait hf hi hnone, s.endStep_ticks hf hc, State.tick, tickDown_eq, tickDown_eq]
    · rw [step_of_keyWait hf hi hnone, s.endStep_idle (.inr hd)]

end Sys2Proof.Machine
end

section
/-! Faults, timers and sound (60_exceptions.md R230 to R239). -/

namespace Sys2Proof.Machine

/-! ## Stack faults (60_exceptions.md R231, R232) -/

/-- The raise takes back the advance of `pc`, mod 2^16, so only the fault registers differ (R232). -/
theorem State.raise_advancePc (s : State) (e : StackFault) :
    s.advancePc.raise e = { s with fault := e.code, faultPc := s.pc } := by
  have hpc : s.advancePc.fetchAddr = s.pc := BitVec.add_sub_cancel s.pc 2
  rw [State.raise, hpc]
  rfl

theorem StackFault.code_ne_zero (e : StackFault) : e.code ≠ 0 := by
  cases e <;> decide

/-- A step whose instruction raises ends without a tick. -/
theorem step_of_raise {s : State} {i : Instr} {e : StackFault} (hf : s.fault = 0)
    (hi : decode s.fetchWord = i) (hr : exec i s.advancePc = .next (s.advancePc.raise e)) :
    step s = .next { s with fault := e.code, faultPc := s.pc } := by
  rw [step_of_decode hf hi hr, State.endStep_idle _ (.inl e.code_ne_zero), State.raise_advancePc]

/-- Settles O23: each cause makes its instruction raise, and a step that raises does no more. -/
theorem stackFaultsArePrecise : Obligations.StackFaultsArePrecise := fun _ hf =>
  ⟨fun nnn hi hfull => step_of_raise hf hi (exec_call_of_full nnn hfull),
    fun hi hempty => step_of_raise hf hi (exec_ret_of_empty hempty)⟩

/-- Settles O24: the end of a step keeps FAULT, and an instruction keeps it too unless it is one of
the two stack faults. -/
theorem nothingElseRaisesAFault : Obligations.NothingElseRaisesAFault := by
  intro s t hf hstep hfault
  obtain ⟨hhalted, -⟩ | ⟨-, u, hexec, rfl⟩ := step_cases hstep
  · exact absurd hf hhalted
  rw [State.endStep_fault] at hfault ⊢
  obtain ⟨hkept, -⟩ | ⟨hfull, hcall, rfl⟩ | ⟨hempty, hret, rfl⟩ := exec_fault_cases hexec
  · exact absurd (hkept.trans hf) hfault
  · exact .inl ⟨rfl, hfull, hcall⟩
  · exact .inr ⟨rfl, hempty, hret⟩

/-! ## Timers (R236 to R238) -/

/-- Only `LD DT, Vx` may write the delay timer (10_state.md R33). -/
theorem Instr.eq_ldDtV_of_writes_dt {i : Instr} (h : .dt ∈ i.writes) : ∃ x, i = .ldDtV x := by
  cases i with
  | ldDtV x => exact ⟨x, rfl⟩
  | _ => simp [Instr.writes] at h

/-- Settles O11: the instruction keeps a timer it does not load, and the end of the step ticks it. -/
theorem timersCountDownOncePerStep : Obligations.TimersCountDownOncePerStep := by
  intro s hf hcoupled
  obtain ⟨t, hexec, frame⟩ :=
    everyInstructionCompletesAndWritesOnlyItsParts (decode s.fetchWord) s.advancePc
  refine ⟨t.endStep, step_of_running s t hf hexec, fun hfault => ?_⟩
  have hconfig : t.config = s.config := frame .config (Instr.config_not_mem_writes _)
  obtain ⟨hdt, hst⟩ := t.endStep_timers_coupled (t.endStep_fault ▸ hfault) (hconfig ▸ hcoupled)
  refine ⟨fun hother => ?_, fun hother => ?_⟩
  · have keeps : t.dt = s.dt :=
      frame .dt fun h => (Instr.eq_ldDtV_of_writes_dt h).elim hother
    rw [hdt, keeps]
  · have keeps : t.st = s.st :=
      frame .st fun h => (Instr.eq_ldStV_of_writes_st h).elim hother
    rw [hst, keeps]

theorem act_timerTick_of_decoupled {s : State} (hd : s.config.timerDecoupled = true) :
    act .timerTick s = .next s.tick :=
  if_pos hd

theorem act_timerTick_of_coupled {s : State} (hc : s.config.timerDecoupled = false) :
    act .timerTick s = .refused .noTimerTick :=
  if_neg (by simp [hc])

/-- Settles O50: the action is one tick, or refused and then without effect. -/
theorem hostTickOnlyWhenDecoupled : Obligations.HostTickOnlyWhenDecoupled := fun s =>
  ⟨fun hd => ⟨s.tick, act_timerTick_of_decoupled hd, tickDown_toNat s.dt, tickDown_toNat s.st,
    s.sameBut_tick⟩,
    fun hc => ⟨act_timerTick_of_coupled hc, afterAct_of_refused (act_timerTick_of_coupled hc)⟩⟩

/-! ## Sound (R239) -/

theorem soundOut_iff (s : State) : soundOut s = true ↔ s.st.toNat ≠ 0 := by
  rw [soundOut, bne_iff_ne, BitVec.toNat_ne]
  rfl

/-- Settles O44: the step leaves one less than the value loaded, which is not 0 from 2 up. -/
theorem soundIsSeenOnlyFromTwoUp : Obligations.SoundIsSeenOnlyFromTwoUp := by
  intro s x hf hcoupled hi
  obtain ⟨-, loaded, -⟩ := timerWriteComesBeforeTheTick s x hf
  obtain ⟨t, hstep, hst, -⟩ := loaded hi
  refine ⟨t, hstep, ?_⟩
  rw [soundOut_iff, hst hcoupled]
  omega

end Sys2Proof.Machine
end

section
/-! The spec's decoding table (95_test_vectors.md L2-DEC). -/

namespace Sys2Proof

/-- Settles O5: each word agrees with the encoder's on the bits the instruction's format uses, and
the format ignores the rest (30_encoding.md R73). -/
theorem wordsOfTheSpecDecode : Obligations.WordsOfTheSpecDecode := by
  unfold Obligations.WordsOfTheSpecDecode
  and_intros <;> exact decode_eq_of_standsFor ⟨rfl, rfl⟩

end Sys2Proof
end
